-- ==== Sys2Proof/Word.lean ====
section
/-! DEFINITION. The widths of the ASIF codec core: a byte (one sample or one delta), the u16 channel-count
field and the 32-bit interface register (spec/00_scope.md R7, spec/10_state.md R25). -/

namespace Sys2Proof

/-- One sample, one delta or one wire byte (R7 SAMPLE_BITS, R51). -/
abbrev Byte := BitVec 8

/-- The u16 of the channel-count wire field (R7 CHANNEL_FIELD_BITS). -/
abbrev Half := BitVec 16

/-- An interface register, a command word, a u32 wire field (R25, R80, R7). -/
abbrev Word := BitVec 32

end Sys2Proof
end

