-- ==== Sys2Proof/Machine/Bytes.lean ====
section
/-! DEFINITION. Byte order (spec/20_memory.md R50, R51) and the byte-sequence primitives of spec/00_scope.md
R10, R11. -/

namespace Sys2Proof.Machine

/-- Byte `k` of a 32-bit word: bits [8k+7:8k] (R51). -/
def wordByte (w : Word) (k : Nat) : Byte := w.extractLsb' (8 * k) 8

/-- `le16(x)` of R11. -/
def le16 (x : Half) : List Byte := [x.extractLsb' 0 8, x.extractLsb' 8 8]

/-- `le32(x)` of R11. -/
def le32 (x : Word) : List Byte := [wordByte x 0, wordByte x 1, wordByte x 2, wordByte x 3]

/-- Byte `i` of a sequence, `S[i]` of R11; the rules read it only below the length. -/
def byteOf (bs : List Byte) (i : Nat) : Byte := bs.getD i 0#8

/-- `rd_le16(S, o)` of R11. -/
def rdLe16 (bs : List Byte) (o : Nat) : Half :=
  BitVec.ofNat 16 ((byteOf bs o).toNat + 2 ^ 8 * (byteOf bs (o + 1)).toNat)

/-- `rd_le32(S, o)` of R11. -/
def rdLe32 (bs : List Byte) (o : Nat) : Word :=
  BitVec.ofNat 32 ((byteOf bs o).toNat + 2 ^ 8 * (byteOf bs (o + 1)).toNat
    + 2 ^ 16 * (byteOf bs (o + 2)).toNat + 2 ^ 24 * (byteOf bs (o + 3)).toNat)

/-- `tc8(d)` of R10: the two's-complement byte of an integer, `d mod 256`. -/
def tc8 (d : Int) : Byte := BitVec.ofInt 8 d

/-- `clip(d)` of R13. -/
def clip (d : Int) : Int := max (-128) (min 127 d)

end Sys2Proof.Machine
end

