-- ==== Sys2Proof/Syntax.lean ====
section
/-! DEFINITION. The nine commands of spec/opcode_table.json (spec/30_encoding.md R82). A command word has no
operand field (R80): operands come from ARG0 to ARG2, IN_LEN and IN (R83). -/

namespace Sys2Proof

/-- One constructor per row of the opcode map (R82). -/
inductive Instr where
  /-- HDR_ENC, serialise a header (R114). -/
  | hdrEnc
  /-- HDR_DEC, parse a header (R115). -/
  | hdrDec
  /-- PROBE, format recognition (R116). -/
  | probe
  /-- OPEN, create a session (R131). -/
  | openSession
  /-- INGEST, append one frame (R132). -/
  | ingest
  /-- END, signal end-of-stream (R137). -/
  | endStream
  /-- FINALIZE, produce the output packet (R140). -/
  | finalize
  /-- CLOSE, release the session (R142). -/
  | closeSession
  /-- DECODE, decode one packet (R181). -/
  | decodePacket
deriving DecidableEq, Repr

/-- Every instruction, in the table's order. -/
def Instr.all : List Instr :=
  [.hdrEnc, .hdrDec, .probe, .openSession, .ingest, .endStream, .finalize, .closeSession, .decodePacket]

end Sys2Proof
end

