-- ==== Sys2Proof/Config.lean ====
section
/-! DEFINITION. What an implementation fixes (the open parameters of spec/00_scope.md R8) and the free values:
constants without a body, about which nothing can be proved. -/

namespace Sys2Proof

/-- Whether the encoder's catchup state is cleared at every channel or once per packet (R8, R162). -/
inductive CatchupScope where
  | perChannel
  | perPacket
deriving DecidableEq, Repr

/-- The parameters of R8 that a model takes as arguments. `State` holds one as plain data that no step
writes, because the interface's step has no other argument (DESIGN CHOICE, log entry 3). -/
structure Config where
  /-- MAX_CAP: the largest capacity one channel buffer can obtain (R8, R136). -/
  maxCap : Nat
  /-- CONF_MAX: what PROBE reports on a match (R8, R116). A 32-bit word, because RES0 holds it (DEDUCED,
  log entry 4). -/
  confMax : Word
  /-- CATCHUP_SCOPE (R8, R162). -/
  catchupScope : CatchupScope
deriving DecidableEq, Repr

/-- The defaults of R8, and for MAX_CAP, which has none, the value the test vectors take where they state
no other (spec/95_test_vectors.md, Conventions). DESIGN CHOICE, log entry 3. -/
def Config.default : Config where
  maxCap := 2 ^ 32 - 1
  confMax := 100#32
  catchupScope := .perChannel

/-- FREE VALUE: byte `a` of the input sequence when the host set IN_LEN above it and never supplied it, for the
`n`-th input sequence. DESIGN CHOICE, log entry 6. -/
opaque Config.unsuppliedByte (n a : Nat) : Byte

/-- FREE VALUE: what the `n`-th register read made while BUSY = 1 returns (R240, I6). Log entry 7. -/
opaque Config.busyReadWord (n : Nat) : Word

/-- FREE VALUE: what a 32-bit length register shows for a length `n` of 2^32 or more; the spec states no
value there. DESIGN CHOICE, log entry 8. -/
opaque Config.longLength (n : Nat) : Word

end Sys2Proof
end

