-- ==== Sys2Proof/WellFormed.lean ====
section
/-! DEFINITION. The checks on what enters the machine: instructions, command words (spec/30_encoding.md R80,
R84) and the parameters of spec/00_scope.md R8. -/

namespace Sys2Proof

/-- An instruction carries no operand (R80, R83), so every one is well formed. -/
def Instr.wellFormed : Instr → Bool
  | .hdrEnc | .hdrDec | .probe | .openSession | .ingest | .endStream | .finalize | .closeSession | .decodePacket =>
    true

/-- The OPC field, bits [7:0] of a command word (R80). -/
def opcField (w : Word) : Byte := w.extractLsb' 0 8

/-- The RSV field, bits [31:8] of a command word (R80). -/
def rsvField (w : Word) : BitVec 24 := w.extractLsb' 8 24

/-- The assigned opcodes, the OPC column of R82. -/
def assignedOpcodes : List Byte :=
  [0x01#8, 0x02#8, 0x03#8, 0x10#8, 0x11#8, 0x12#8, 0x13#8, 0x14#8, 0x20#8]

/-- A command word is legal when RSV is 0 and OPC is assigned (R84). -/
def commandWordLegal (w : Word) : Bool :=
  rsvField w == 0#24 && assignedOpcodes.contains (opcField w)

/-- The constraints R8 puts on the parameters. -/
def Config.legal (c : Config) : Bool :=
  decide (8000 ≤ c.maxCap) && decide (c.maxCap ≤ 2 ^ 32 - 1) && c.confMax != 0#32

end Sys2Proof
end

