-- ==== Sys2Proof/Decode.lean ====
section
/-! DEFINITION. The decoder of spec/30_encoding.md R86, total on words and on bytes, and the encoder of R82. -/

namespace Sys2Proof

/-- Why a word is no command. The machine answers each with INVALID_COMMAND (R84), so neither stops a run. -/
inductive DecodeError where
  /-- RSV ≠ 0 (R84). -/
  | reservedBits (rsv : BitVec 24)
  /-- OPC not in the opcode map (R84). -/
  | unassignedOpcode (opc : Byte)
  /-- Fewer than the four bytes of a command word (R81). -/
  | shortWord (bytes : Nat)
deriving DecidableEq, Repr

/-- `decode(W)` of R86. -/
def decode (w : Word) : Except DecodeError Instr :=
  if rsvField w ≠ 0#24 then .error (.reservedBits (rsvField w))
  else
    match (opcField w).toNat with
    | 0x01 => .ok .hdrEnc
    | 0x02 => .ok .hdrDec
    | 0x03 => .ok .probe
    | 0x10 => .ok .openSession
    | 0x11 => .ok .ingest
    | 0x12 => .ok .endStream
    | 0x13 => .ok .finalize
    | 0x14 => .ok .closeSession
    | 0x20 => .ok .decodePacket
    | _ => .error (.unassignedOpcode (opcField w))

/-- A command word laid out as bytes, least significant first (R51), decoded; the bytes after it are
returned. -/
def decodeBytes : List Byte → Except DecodeError (Instr × List Byte)
  | b0 :: b1 :: b2 :: b3 :: rest =>
    match decode (Machine.rdLe32 [b0, b1, b2, b3] 0) with
    | .ok i => .ok (i, rest)
    | .error e => .error e
  | bs => .error (.shortWord bs.length)

/-- The host's question: the instruction the decoder reads from the bits of an opcode-table row, laid out
as bytes in the register's byte order (R51). Bits at or above `nbits` are 0. -/
def decodeTableWord (nbits w : Nat) : Option Instr :=
  match decodeBytes (Machine.le32 (BitVec.ofNat 32 (w % 2 ^ nbits))) with
  | .ok (i, _) => some i
  | .error _ => none

/-- The command word of an instruction (R82; R86 gives `match` = W and a full mask). -/
def encode : Instr → Word
  | .hdrEnc => 0x00000001#32
  | .hdrDec => 0x00000002#32
  | .probe => 0x00000003#32
  | .openSession => 0x00000010#32
  | .ingest => 0x00000011#32
  | .endStream => 0x00000012#32
  | .finalize => 0x00000013#32
  | .closeSession => 0x00000014#32
  | .decodePacket => 0x00000020#32

/-- The bytes of an instruction's command word (R51). -/
def encodeBytes (i : Instr) : List Byte := Machine.le32 (encode i)

/-! Every constructor's decoding, at the word R82 gives it, written out bit by bit: RSV, then OPC. -/

theorem decode_hdrEnc : decode 0b000000000000000000000000_00000001#32 = .ok .hdrEnc := by decide
theorem decode_hdrDec : decode 0b000000000000000000000000_00000010#32 = .ok .hdrDec := by decide
theorem decode_probe : decode 0b000000000000000000000000_00000011#32 = .ok .probe := by decide
theorem decode_openSession : decode 0b000000000000000000000000_00010000#32 = .ok .openSession := by decide
theorem decode_ingest : decode 0b000000000000000000000000_00010001#32 = .ok .ingest := by decide
theorem decode_endStream : decode 0b000000000000000000000000_00010010#32 = .ok .endStream := by decide
theorem decode_finalize : decode 0b000000000000000000000000_00010011#32 = .ok .finalize := by decide
theorem decode_closeSession : decode 0b000000000000000000000000_00010100#32 = .ok .closeSession := by decide
theorem decode_decodePacket : decode 0b000000000000000000000000_00100000#32 = .ok .decodePacket := by decide

end Sys2Proof
end

