-- ==== Sys2Proof/Machine/State.lean ====
section
/-! DEFINITION. The state of the ASIF codec core (spec/10_state.md), the reasons a step can stop, and the
state after reset (R36). -/

namespace Sys2Proof.Machine

/-- `sess.state` (R21). -/
inductive SessState where
  /-- IDLE: no session exists. -/
  | idle
  /-- OPEN: frames may be ingested. -/
  | opened
  /-- ENDED: end-of-stream signalled, no packet produced yet. -/
  | ended
  /-- DONE: the single packet has been produced. -/
  | done
  /-- FAILED: AllocationFailure happened. -/
  | failed
deriving DecidableEq, Repr

/-- The values of STATUS.CODE (R90: "No other CODE value is ever written"). -/
inductive StatusCode where
  | ok
  | formatMismatch
  | truncatedInput
  | allocationFailure
  | exhaustedStream
  | notReady
  | stateError
  | invalidArgument
  | invalidCommand
deriving DecidableEq, Repr

/-- One channel's growable sample store (R22), used count and capacity tracked separately. -/
structure ChannelBuffer where
  /-- `sess.buf[c]`, which CHBUF[c] holds at bytes 0 to used − 1 (R54). -/
  data : List Byte
  /-- `sess.used[c]`. -/
  used : Nat
  /-- `sess.capacity[c]`, in bytes. -/
  capacity : Nat
deriving DecidableEq, Repr

/-- A buffer that holds nothing (R22, R36). -/
def ChannelBuffer.empty : ChannelBuffer where
  data := []
  used := 0
  capacity := 0

/-- The EncoderSession record (R20). -/
structure Session where
  state : SessState
  sampleRate : Word
  channelCount : Half
  sampleCount : Word
  buffers : Vector ChannelBuffer 16
deriving DecidableEq, Repr

/-- The session record of reset and CLOSE (R36, R142). -/
def Session.none : Session where
  state := .idle
  sampleRate := 0#32
  channelCount := 0#16
  sampleCount := 0#32
  buffers := Vector.replicate 16 ChannelBuffer.empty

/-- Memory as (address, byte) cells, addresses strictly rising. -/
abbrev Memory := List Host.Cell

/-- What the host can do to the block (R59, R91, R230, R233). A register access gives its width in bits and its
byte offset in the window (R56, R60). -/
inductive HostAction where
  /-- A write to the register window. -/
  | write (width offset : Nat) (value : Word)
  /-- A read of the register window; the word lands in `hostData`. -/
  | read (width offset : Nat)
  /-- `IN <- bytes` (R91). -/
  | loadIn (bytes : List Byte)
  /-- One byte of IN supplied or changed (R52, R241 (c)). -/
  | pokeIn (addr : Nat) (b : Byte)
  /-- `IN <- OUT` (R91). -/
  | copyOutToIn
  /-- `IN_LEN <- len(IN)`, for the IN the host last supplied (R91). -/
  | sizeIn
  /-- Wait for STATUS.BUSY = 0 (R233). -/
  | await
  /-- Assert and release reset (R230). -/
  | reset
deriving DecidableEq, Repr

/-- The state of the block, the parameters of its step (R35), and the host's side of the interface. -/
structure State where
  /-- MAX_CAP, CONF_MAX, CATCHUP_SCOPE (R8, R35). No step writes it. -/
  cfg : Config
  /-- The one session record (R20). -/
  sess : Session
  /-- CMD (R25). -/
  cmd : Word
  /-- ARG0 (R25). -/
  arg0 : Word
  /-- ARG1 (R25). -/
  arg1 : Word
  /-- ARG2 (R25). -/
  arg2 : Word
  /-- IN_LEN (R25, R29). -/
  inLen : Word
  /-- STATUS.CODE (R26). -/
  code : StatusCode
  /-- STATUS.BUSY (R26): a CMD write sets it, the command's end clears it. -/
  busy : Bool
  /-- RES0 (R25, R27). -/
  res0 : Word
  /-- RES1 (R25, R27). -/
  res1 : Word
  /-- RES2 (R25, R27). -/
  res2 : Word
  /-- OUT (R35, R53). -/
  out : List Byte
  /-- The bytes of IN the host has supplied (R52). -/
  inMem : Memory
  /-- MODEL's own: how often the host has changed what IN is. Index of the free value of a byte never supplied
  (log entry 6). -/
  inEpoch : Nat
  /-- MODEL's own: the host's pending actions, first one first (R35; log entry 2). -/
  hostQueue : List HostAction
  /-- MODEL's own: the word the last register read gave the host (R59; log entry 2). -/
  hostData : Word
  /-- MODEL's own: how many register reads met BUSY = 1. Index of the free value such a read returns (R240,
  I6; log entry 7). -/
  busyReads : Nat
deriving DecidableEq, Repr

/-- What the host did that R241 forbids. -/
inductive HostViolation where
  /-- (a) a CMD write while BUSY = 1. -/
  | cmdWriteWhileBusy
  /-- (b) a write of ARG0, ARG1, ARG2 or IN_LEN while BUSY = 1. -/
  | operandWriteWhileBusy
  /-- (c) a change of IN while BUSY = 1. -/
  | inChangeWhileBusy
  /-- (d) a register access that is not 32 bits wide at a multiple of 4. -/
  | badAccess
deriving DecidableEq, Repr

/-- The one fault of the block. No command raises a fault: its errors are status codes (R200). -/
inductive Fault where
  /-- HOST_PROTOCOL, raised by a host action that R241 forbids; the block has no further step (I10). Safe: the
  spec leaves what a block does then unspecified, and the model goes no further. -/
  | hostProtocol (v : HostViolation)
deriving DecidableEq, Repr

/-- What the model gives no meaning. -/
inductive Refusal where
  /-- Raised by an arm of `exec` that has no meaning yet; no arm raises it. Safe. -/
  | notModelled (mnemonic : String)
  /-- Raised by a register access at offset 0x40 or above, which does not reach the block (R60, I17 "refuse").
  Safe: no claim can depend on it. -/
  | offBlockAccess (offset : Nat)
deriving DecidableEq, Repr

/-- The state after reset (R36) of a block with parameters `c`; nothing supplied in IN, no host action
pending (log entries 2, 6). -/
def State.resetWith (c : Config) : State where
  cfg := c
  sess := Session.none
  cmd := 0#32
  arg0 := 0#32
  arg1 := 0#32
  arg2 := 0#32
  inLen := 0#32
  code := .ok
  busy := false
  res0 := 0#32
  res1 := 0#32
  res2 := 0#32
  out := []
  inMem := []
  inEpoch := 0
  hostQueue := []
  hostData := 0#32
  busyReads := 0

/-- The state right after reset (R36, R230), with the parameters of log entry 3. -/
def State.reset : State := State.resetWith Config.default

end Sys2Proof.Machine
end

