-- ==== Sys2Proof/Machine/Ops.lean ====
section
/-! DEFINITION. The named operations over memory and registers: the fixed parameters (spec/00_scope.md R7), the
cells of IN, the end of a command, and the one operation by which a command raises a status code
(spec/60_exceptions.md R200 to R206). -/

namespace Sys2Proof.Machine

/-! ### Fixed parameters (R7) -/

/-- MAX_CHANNELS. -/
abbrev maxChannels : Nat := 16

/-- HEADER_SIZE. -/
abbrev headerSize : Nat := 14

/-- MAGIC, the ASCII codes of "asif" (R111, supplied there from general knowledge; log entry 9). -/
def magic : List Byte := [0x61#8, 0x73#8, 0x69#8, 0x66#8]

/-- INITIAL_CAPACITY. -/
abbrev initialCapacity : Nat := 8000

/-- GROWTH_FACTOR. -/
abbrev growthFactor : Nat := 2

/-! ### Memory -/

/-- What an address that lists no byte reads as: no value (DESIGN CHOICE, log entry 6). -/
def Memory.unlisted : Option Byte := none

/-- The byte at an address. -/
def Memory.read : Memory → Nat → Option Byte
  | [], _ => Memory.unlisted
  | (k, b) :: m, a => if k = a then some b else Memory.read m a

/-- Set the byte at an address, keeping the addresses rising. -/
def Memory.write : Memory → Nat → Byte → Memory
  | [], a, b => [(a, b)]
  | (k, v) :: m, a, b =>
    if a < k then (a, b) :: (k, v) :: m
    else if a = k then (a, b) :: m
    else (k, v) :: Memory.write m a b

/-- A byte sequence laid out from address `a`. -/
def Memory.layFrom : Nat → List Byte → Memory
  | _, [] => []
  | a, b :: bs => (a, b) :: Memory.layFrom (a + 1) bs

/-- A byte sequence as memory, byte 0 at address 0 (R52: "every command sees its IN from offset 0"). -/
def Memory.ofBytes (bs : List Byte) : Memory := Memory.layFrom 0 bs

/-- One more than the highest listed address; for a sequence, its length. -/
def Memory.extent : Memory → Nat
  | [] => 0
  | [(k, _)] => k + 1
  | _ :: c :: m => Memory.extent (c :: m)

/-- Every listed address is at least `lo`, and they rise strictly. -/
def Memory.risesFrom : Nat → Memory → Bool
  | _, [] => true
  | lo, (k, _) :: m => decide (lo ≤ k) && Memory.risesFrom (k + 1) m

/-- The canonical form: addresses strictly rising. An unlisted address has no value, so no entry can equal
what it reads as. -/
def Memory.wf (m : Memory) : Bool := Memory.risesFrom 0 m

/-! ### Registers and the session -/

/-- Replace the session record. -/
def State.withSession (s : State) (x : Session) : State := { s with sess := x }

/-- `sess.state <- st` (R12). -/
def State.withSessState (s : State) (st : SessState) : State := { s with sess := { s.sess with state := st } }

/-- `x[RES0] <- v` (R12, R27). -/
def State.withRes0 (s : State) (v : Word) : State := { s with res0 := v }

/-- RES0, RES1 and RES2 written together (R27). -/
def State.withResults (s : State) (r0 r1 r2 : Word) : State := { s with res0 := r0, res1 := r1, res2 := r2 }

/-! ### The end of a command -/

/-- A command completes: STATUS.CODE is written, OUT holds exactly what the command appended to the OUT it
emptied (R53), and BUSY goes back to 0 (R80). -/
def State.retire (s : State) (c : StatusCode) (o : List Byte) : State :=
  { s with code := c, out := o, busy := false }

/-- `raise E` (R13, R203): the block's counterpart of taking an exception. STATUS.CODE <- E, OUT empty,
everything else as it stands. No pc, status or mode is saved and there is no return (R206). -/
def State.raise (s : State) (e : StatusCode) : Host.Outcome State Fault Refusal := .next (s.retire e [])

/-- `return` (R13): the command ends with status OK and output `o`. -/
def State.finish (s : State) (o : List Byte) : Host.Outcome State Fault Refusal := .next (s.retire .ok o)

/-- The step of an illegal command word (R84). -/
def State.illegal (s : State) : Host.Outcome State Fault Refusal := s.raise .invalidCommand

/-- The command word the block samples (R80, R67). -/
def State.fetch (s : State) : Word := s.cmd

end Sys2Proof.Machine
end

