-- ==== Sys2Proof/Machine/Operands.lean ====
section
/-! DEFINITION. The operand forms of spec/30_encoding.md R83, and reads of IN (spec/20_memory.md R52). -/

namespace Sys2Proof.Machine

/-- ARG0 as a sample rate, a u32 (R83). -/
abbrev State.rateArg (s : State) : Word := s.arg0

/-- ARG0 as k, the samples per channel of a frame (R132). -/
abbrev State.frameArg (s : State) : Nat := s.arg0.toNat

/-- ARG1[15:0], the channel count (R83). -/
abbrev State.channelsArg (s : State) : Half := s.arg1.extractLsb' 0 16

/-- ARG1[31:16], which must be 0 where ARG1 carries a channel count (R83). -/
abbrev State.channelsArgHigh (s : State) : Half := s.arg1.extractLsb' 16 16

/-- ARG2 as a sample count, a u32 (R83). -/
abbrev State.countArg (s : State) : Word := s.arg2

/-- IN_LEN, the length of IN in bytes (R29). -/
abbrev State.inSize (s : State) : Nat := s.inLen.toNat

/-- Byte `a` of IN. A byte the host has not supplied is a free value (log entry 6). -/
def State.inByte (s : State) (a : Nat) : Byte := (s.inMem.read a).getD (Config.unsuppliedByte s.inEpoch a)

/-- `MemRead(IN, a, n)` (R12). The commands check a + n ≤ IN_LEN first. -/
def State.readIn (s : State) (a n : Nat) : List Byte := (List.range n).map fun i => s.inByte (a + i)

end Sys2Proof.Machine
end

