-- ==== Sys2Proof/Machine/HeaderCodec.lean ====
section
/-! DEFINITION. The Header Codec: the stream header and its two functions, HDR_ENC, HDR_DEC and PROBE
(spec/40_header_codec.md). -/

namespace Sys2Proof.Machine

/-- The fields of a StreamHeader after its magic (R110). -/
structure Header where
  rate : Word
  channels : Half
  count : Word
deriving DecidableEq, Repr

/-- HeaderEncode (R112). It checks no value. -/
def headerEncode (rate : Word) (channels : Half) (count : Word) : List Byte :=
  magic ++ le32 rate ++ le16 channels ++ le32 count

/-- HeaderDecode (R113); `none` is FORMAT_MISMATCH. -/
def headerDecode (bs : List Byte) : Option Header :=
  if bs.length < headerSize then none
  else if bs.take 4 = magic then some { rate := rdLe32 bs 4, channels := rdLe16 bs 8, count := rdLe32 bs 10 }
  else none

/-- The header at the start of IN, or `none` when IN is shorter than a header or does not begin with the magic
(R113, R115). -/
def State.inHeader (s : State) : Option Header :=
  if s.inSize < headerSize then none else headerDecode (s.readIn 0 headerSize)

/-- The format-recognition rule: IN has four first bytes and they are the magic (R116). -/
def State.inRecognised (s : State) : Bool := decide (4 ≤ s.inSize) && s.readIn 0 4 == magic

/-- HDR_ENC (R114). -/
def execHdrEnc (s : State) : Host.Outcome State Fault Refusal :=
  if s.channelsArgHigh ≠ 0#16 then s.raise .invalidArgument
  else s.finish (headerEncode s.rateArg s.channelsArg s.countArg)

/-- HDR_DEC (R115). -/
def execHdrDec (s : State) : Host.Outcome State Fault Refusal :=
  match s.inHeader with
  | none => s.raise .formatMismatch
  | some h => (s.withResults h.rate (h.channels.setWidth 32) h.count).finish []

/-- PROBE (R116). -/
def execProbe (s : State) : Host.Outcome State Fault Refusal :=
  (s.withRes0 (if s.inRecognised then s.cfg.confMax else 0#32)).finish []

end Sys2Proof.Machine
end

