-- ==== Sys2Proof/Machine/DeltaDecoder.lean ====
section
/-! DEFINITION. The Delta Decoder and DECODE (spec/43_delta_decoder.md). -/

namespace Sys2Proof.Machine

/-- Step 2 of DeltaDecode: each byte added to the sample before it, modulo 256 (R180). -/
def decodeDeltas : Byte → List Byte → List Byte
  | _, [] => []
  | prev, b :: bs => (prev + b) :: decodeDeltas (prev + b) bs

/-- DeltaDecode (R180). -/
def deltaDecode : List Byte → List Byte
  | [] => []
  | b :: bs => b :: decodeDeltas b bs

/-- Channel `c`'s encoded block in IN, of `sc` bytes (R184). -/
def State.bodyBlock (s : State) (sc c : Nat) : List Byte := s.readIn (headerSize + c * sc) sc

/-- The decoded channels, channel 0 first, planar (R181, R183). -/
def State.decodedBody (s : State) (cc sc : Nat) : List Byte :=
  (List.range cc).flatMap fun c => deltaDecode (s.bodyBlock sc c)

/-- DECODE (R181), its checks in the order of R202. -/
def execDecode (s : State) : Host.Outcome State Fault Refusal :=
  match s.inHeader with
  | none => s.raise .formatMismatch
  | some h =>
    if maxChannels < h.channels.toNat then s.raise .invalidArgument
    else if s.inSize < headerSize + h.channels.toNat * h.count.toNat then s.raise .truncatedInput
    else (s.withResults h.rate (h.channels.setWidth 32) h.count).finish
      (s.decodedBody h.channels.toNat h.count.toNat)

end Sys2Proof.Machine
end

