-- ==== Sys2Proof/Machine/DeltaEncoder.lean ====
section
/-! DEFINITION. The Delta Encoder (spec/42_delta_encoder.md), which FINALIZE runs. -/

namespace Sys2Proof.Machine

/-- The catchup state (R33): it exists only inside one FINALIZE, so it is passed along, not held in State
(log entry 14). -/
structure Catchup where
  pending : Bool
  amount : Int
deriving DecidableEq, Repr

/-- The catchup state a packet starts with (R162). -/
def Catchup.clear : Catchup where
  pending := false
  amount := 0

/-- Step 3, the adjustment (R163). The comparisons are of integers, so the one with −128 is false for every
sample (R166); it stands as the spec writes it. -/
def catchupAdjust (prev : Byte) (d : Int) (k : Catchup) : Int :=
  if k.pending then
    if (prev.toNat : Int) = 127 then d + k.amount
    else if (prev.toNat : Int) = -128 then d - k.amount
    else d
  else d

/-- Step 4, clip (R164). A flag that was pending is cleared (R163); the amount stays when no clip occurs. -/
def clipDelta (d : Int) (amount : Int) : Int × Catchup :=
  if d > 127 then (127, { pending := true, amount := d - 127 })
  else if d < -128 then (-128, { pending := true, amount := d + 128 })
  else (d, { pending := false, amount := amount })

/-- One iteration (R161, steps 2 to 5): difference, adjustment, clip, emit. -/
def encodeDelta (prev cur : Byte) (k : Catchup) : Byte × Catchup :=
  let d : Int := (cur.toNat : Int) - prev.toNat
  let r := clipDelta (catchupAdjust prev d k) k.amount
  (tc8 r.1, r.2)

/-- The iterations for i = 1 to n − 1, `prev` being s[i−1]. -/
def encodeDeltas : Byte → List Byte → Catchup → List Byte × Catchup
  | _, [], k => ([], k)
  | prev, cur :: rest, k =>
    let r := encodeDelta prev cur k
    let q := encodeDeltas cur rest r.2
    (r.1 :: q.1, q.2)

/-- DeltaEncodeChannel (R161). -/
def deltaEncodeChannel : List Byte → Catchup → List Byte × Catchup
  | [], k => ([], k)
  | first :: rest, k =>
    let q := encodeDeltas first rest k
    (first :: q.1, q.2)

/-- The loop of DeltaEncodeAll (R162). -/
def deltaEncodeFrom (scope : CatchupScope) : List (List Byte) → Catchup → List Byte
  | [], _ => []
  | ch :: chs, k =>
    let start := match scope with
      | .perChannel => Catchup.clear
      | .perPacket => k
    let q := deltaEncodeChannel ch start
    q.1 ++ deltaEncodeFrom scope chs q.2

/-- DeltaEncodeAll (R162). -/
def deltaEncodeAll (scope : CatchupScope) (chs : List (List Byte)) : List Byte :=
  deltaEncodeFrom scope chs Catchup.clear

end Sys2Proof.Machine
end

