-- ==== Sys2Proof/Machine/FrameAccumulator.lean ====
section
/-! DEFINITION. The Frame Accumulator and the session commands OPEN, INGEST, END, FINALIZE and CLOSE
(spec/41_frame_accumulator.md). -/

namespace Sys2Proof.Machine

/-! ### Growth -/

/-- Grow with a bound on the number of doublings. -/
def growLoop : Nat → Nat → Nat → Nat
  | 0, cap, _ => cap
  | n + 1, cap, need => if need ≤ cap then cap else growLoop n (growthFactor * cap) need

/-- Grow (R135). `need.log2 + 1` doublings are enough for every capacity above 0 (DEDUCED, log entry 10). -/
def grow (cap need : Nat) : Nat := growLoop (need.log2 + 1) cap need

/-! ### The session record -/

/-- The capacity channel buffer `b` needs for `k` more samples (R132). -/
abbrev ChannelBuffer.grownCapacity (b : ChannelBuffer) (k : Nat) : Nat := grow b.capacity (b.used + k)

/-- Append samples, taking the grown capacity (R132, R134). -/
def ChannelBuffer.append (b : ChannelBuffer) (samples : List Byte) (k : Nat) : ChannelBuffer where
  data := b.data ++ samples
  used := b.used + k
  capacity := b.grownCapacity k

/-- The record OPEN creates (R131). -/
def Session.create (rate : Word) (channels : Half) : Session where
  state := .opened
  sampleRate := rate
  channelCount := channels
  sampleCount := 0#32
  buffers := Vector.ofFn fun c =>
    { data := [], used := 0, capacity := if c.val < channels.toNat then initialCapacity else 0 }

/-- Some channel's Grow result exceeds MAX_CAP (R132, R136). -/
def Session.growthFails (x : Session) (maxCap k : Nat) : Bool :=
  (x.buffers.toList.take x.channelCount.toNat).any fun b => decide (maxCap < b.grownCapacity k)

/-- Append one planar frame of `k` samples per channel; `frame c` is channel `c`'s part (R132, R133). -/
def Session.appendFrame (x : Session) (frame : Nat → List Byte) (k : Nat) : Session :=
  { x with
    sampleCount := x.sampleCount + BitVec.ofNat 32 k
    buffers := Vector.ofFn fun c =>
      if c.val < x.channelCount.toNat then x.buffers[c].append (frame c.val) k else x.buffers[c] }

/-- The channels' sample sequences `sess.buf[c][0..sc)`, c < cc (R141). -/
def Session.channels (x : Session) : List (List Byte) :=
  (x.buffers.toList.take x.channelCount.toNat).map fun b => b.data.take x.sampleCount.toNat

/-- Packet (R141). -/
def Session.packet (x : Session) (scope : CatchupScope) : List Byte :=
  headerEncode x.sampleRate x.channelCount x.sampleCount ++ deltaEncodeAll scope x.channels

/-- IN_LEN is what a frame of the session needs, `cc · k` as an integer (R132). -/
def State.frameFits (s : State) : Bool := s.inSize == s.sess.channelCount.toNat * s.frameArg

/-- Channel `c`'s part of the frame in IN: IN[c·k .. (c+1)·k) (R133). -/
def State.framePart (s : State) (c : Nat) : List Byte := s.readIn (c * s.frameArg) s.frameArg

/-! ### The commands -/

/-- OPEN (R131). -/
def execOpen (s : State) : Host.Outcome State Fault Refusal :=
  if s.sess.state ≠ .idle then s.raise .stateError
  else if s.channelsArgHigh ≠ 0#16 then s.raise .invalidArgument
  else if s.channelsArg.toNat < 1 ∨ maxChannels < s.channelsArg.toNat then s.raise .invalidArgument
  else (s.withSession (Session.create s.rateArg s.channelsArg)).finish []

/-- INGEST (R132, R136). -/
def execIngest (s : State) : Host.Outcome State Fault Refusal :=
  match s.sess.state with
  | .idle | .ended | .done => s.raise .stateError
  | .failed => s.raise .allocationFailure
  | .opened =>
    if s.frameFits = false then s.raise .invalidArgument
    else if s.sess.growthFails s.cfg.maxCap s.frameArg then (s.withSessState .failed).raise .allocationFailure
    else (s.withSession (s.sess.appendFrame s.framePart s.frameArg)).finish []

/-- END (R137). -/
def execEnd (s : State) : Host.Outcome State Fault Refusal :=
  match s.sess.state with
  | .idle => s.raise .stateError
  | .failed => s.raise .allocationFailure
  | .opened => (s.withSessState .ended).finish []
  | .ended | .done => s.finish []

/-- FINALIZE (R140). -/
def execFinalize (s : State) : Host.Outcome State Fault Refusal :=
  match s.sess.state with
  | .idle => s.raise .stateError
  | .opened => s.raise .notReady
  | .done => s.raise .exhaustedStream
  | .failed => s.raise .allocationFailure
  | .ended => (s.withSessState .done).finish (s.sess.packet s.cfg.catchupScope)

/-- CLOSE (R142). -/
def execClose (s : State) : Host.Outcome State Fault Refusal := (s.withSession Session.none).finish []

end Sys2Proof.Machine
end

