-- ==== Sys2Proof/Machine/Dispatch.lean ====
section
/-! DEFINITION. One arm per command (spec/30_encoding.md R82). -/

namespace Sys2Proof.Machine

def exec (i : Instr) (s : State) : Host.Outcome State Fault Refusal :=
  match i with
  | .hdrEnc => Sys2Proof.Machine.execHdrEnc s
  | .hdrDec => Sys2Proof.Machine.execHdrDec s
  | .probe => Sys2Proof.Machine.execProbe s
  | .openSession => Sys2Proof.Machine.execOpen s
  | .ingest => Sys2Proof.Machine.execIngest s
  | .endStream => Sys2Proof.Machine.execEnd s
  | .finalize => Sys2Proof.Machine.execFinalize s
  | .closeSession => Sys2Proof.Machine.execClose s
  | .decodePacket => Sys2Proof.Machine.execDecode s

end Sys2Proof.Machine
end

