-- ==== Sys2Proof/Machine/Flags.lean ====
section
/-! DEFINITION. STATUS (spec/10_state.md R26, R32) with the numbers of its codes (spec/30_encoding.md R90), and
the read-only mirrors of the session and of OUT (R28, R29). The block has no condition codes (R32). -/

namespace Sys2Proof.Machine

/-- STATUS[7:0], the number of each code (R90). -/
def StatusCode.toByte : StatusCode → Byte
  | .ok => 0x00#8
  | .formatMismatch => 0x01#8
  | .truncatedInput => 0x02#8
  | .allocationFailure => 0x03#8
  | .exhaustedStream => 0x04#8
  | .notReady => 0x05#8
  | .stateError => 0x10#8
  | .invalidArgument => 0x11#8
  | .invalidCommand => 0x12#8

/-- STATUS[10:8], the number of each session state (R26). -/
def SessState.toBits : SessState → BitVec 3
  | .idle => 0#3
  | .opened => 1#3
  | .ended => 2#3
  | .done => 3#3
  | .failed => 4#3

/-- STATUS: BUSY in [31], [30:11] hardwired 0, STATE in [10:8], CODE in [7:0] (R26). -/
def statusFields (busy : Bool) (state : BitVec 3) (code : Byte) : Word :=
  (BitVec.ofBool busy ++ 0#20 ++ state ++ code : BitVec 32)

/-- The STATUS register between commands (R26). STATE always equals sess.state. -/
def State.statusWord (s : State) : Word := statusFields s.busy s.sess.state.toBits s.code.toByte

/-- A byte count as a 32-bit length register shows it. A count of 2^32 or more has no stated value there: a
free value (log entry 8). -/
def lengthWord (n : Nat) : Word := if n < 2 ^ 32 then BitVec.ofNat 32 n else Config.longLength n

/-- OUT_LEN (R29). -/
def State.outLenWord (s : State) : Word := lengthWord s.out.length

/-- SESS_RATE (R28). -/
def State.sessRateWord (s : State) : Word := s.sess.sampleRate

/-- SESS_CHANNELS (R28). -/
def State.sessChannelsWord (s : State) : Word := s.sess.channelCount.setWidth 32

/-- SESS_COUNT (R28). -/
def State.sessCountWord (s : State) : Word := s.sess.sampleCount

/-- SESS_CAP: the capacity of channel 0 when the session has a channel, else 0 (R28). -/
def State.sessCapWord (s : State) : Word :=
  if 1 ≤ s.sess.channelCount.toNat then lengthWord s.sess.buffers[0].capacity else 0#32

end Sys2Proof.Machine
end

