-- ==== Sys2Proof/Machine/HostPort.lean ====
section
/-! DEFINITION. The host's side of the interface: the register window (spec/10_state.md R25,
spec/20_memory.md R55, R56, R59, R60), supplying IN (R52), reset (spec/70_reset_and_hazards.md R230) and the
protocol violations of R241. -/

namespace Sys2Proof.Machine

/-- The registers of the window (R60). -/
inductive Reg where
  | cmd | arg0 | arg1 | arg2 | inLen | status | res0 | res1 | res2 | outLen
  | sessRate | sessChannels | sessCount | sessCap
  /-- Offsets 0x38 and 0x3C. -/
  | reserved
deriving DecidableEq, Repr

/-- The register map (R60); `none` is an offset the window does not hold. -/
def Reg.ofOffset : Nat → Option Reg
  | 0x00 => some .cmd
  | 0x04 => some .arg0
  | 0x08 => some .arg1
  | 0x0C => some .arg2
  | 0x10 => some .inLen
  | 0x14 => some .status
  | 0x18 => some .res0
  | 0x1C => some .res1
  | 0x20 => some .res2
  | 0x24 => some .outLen
  | 0x28 => some .sessRate
  | 0x2C => some .sessChannels
  | 0x30 => some .sessCount
  | 0x34 => some .sessCap
  | 0x38 => some .reserved
  | 0x3C => some .reserved
  | _ => none

/-- The value of a register between commands (R25, R26, R28, R29, R60). -/
def State.readReg (s : State) : Reg → Word
  | .cmd => s.cmd
  | .arg0 => s.arg0
  | .arg1 => s.arg1
  | .arg2 => s.arg2
  | .inLen => s.inLen
  | .status => s.statusWord
  | .res0 => s.res0
  | .res1 => s.res1
  | .res2 => s.res2
  | .outLen => s.outLenWord
  | .sessRate => s.sessRateWord
  | .sessChannels => s.sessChannelsWord
  | .sessCount => s.sessCountWord
  | .sessCap => s.sessCapWord
  | .reserved => 0#32

/-- What a host read of any register, STATUS among them, returns while BUSY = 1: any 32-bit value (R240, D27, I6; log
entry 7). -/
def State.busyRead (s : State) : Word := Config.busyReadWord s.busyReads

/-- Byte `k` of a register as a byte-addressed host bus lays it out (R51). -/
def State.regByte (s : State) (r : Reg) (k : Nat) : Byte := wordByte (s.readReg r) k

/-- A host write that reaches a register (R25, R59): a CMD write starts a command (R80), a write of an operand
register stores, a write of a read-only or reserved register is ignored. A write of IN_LEN changes what IN is, so it
opens a new epoch (log entry 6). -/
def State.writeReg (s : State) (r : Reg) (v : Word) : State :=
  match r with
  | .cmd => { s with cmd := v, busy := true }
  | .arg0 => { s with arg0 := v }
  | .arg1 => { s with arg1 := v }
  | .arg2 => { s with arg2 := v }
  | .inLen => { s with inLen := v, inEpoch := s.inEpoch + 1 }
  | .status | .res0 | .res1 | .res2 | .outLen | .sessRate | .sessChannels | .sessCount | .sessCap | .reserved => s

/-- What R241 (a) and (b) forbid while BUSY = 1. -/
def Reg.busyViolation : Reg → Option HostViolation
  | .cmd => some .cmdWriteWhileBusy
  | .arg0 | .arg1 | .arg2 | .inLen => some .operandWriteWhileBusy
  | .status | .res0 | .res1 | .res2 | .outLen | .sessRate | .sessChannels | .sessCount | .sessCap | .reserved => none

/-- A register access is 32 bits wide at a multiple of 4 (R56). -/
def accessWellFormed (width offset : Nat) : Bool := width == 32 && offset % 4 == 0

/-- A host write of the register window (R56, R60, R241). -/
def hostWrite (s : State) (width offset : Nat) (v : Word) : Host.Outcome State Fault Refusal :=
  if accessWellFormed width offset = false then .fault (.hostProtocol .badAccess)
  else
    match Reg.ofOffset offset with
    | none => .refused (.offBlockAccess offset)
    | some r =>
      match (if s.busy then r.busyViolation else none) with
      | some w => .fault (.hostProtocol w)
      | none => .next (s.writeReg r v)

/-- A host read of the register window (R56, R59, R60, R240). -/
def hostRead (s : State) (width offset : Nat) : Host.Outcome State Fault Refusal :=
  if accessWellFormed width offset = false then .fault (.hostProtocol .badAccess)
  else
    match Reg.ofOffset offset with
    | none => .refused (.offBlockAccess offset)
    | some r =>
      if s.busy then .next { s with hostData := s.busyRead, busyReads := s.busyReads + 1 }
      else .next { s with hostData := s.readReg r }

/-- The host changes what IN is: allowed between commands only (R67, R241 (c)). -/
def hostSupply (s : State) (m : Memory) : Host.Outcome State Fault Refusal :=
  if s.busy then .fault (.hostProtocol .inChangeWhileBusy)
  else .next { s with inMem := m, inEpoch := s.inEpoch + 1 }

/-- The host writes IN_LEN with the length of the IN it supplied (R91). -/
def hostSizeIn (s : State) : Host.Outcome State Fault Refusal :=
  hostWrite s 32 0x10 (lengthWord s.inMem.extent)

/-- Reset (R230): every piece of the block's state takes its value of R36, a command in progress is abandoned. The
parameters and the host's own side stay; IN counts as not supplied (log entry 11). -/
def State.resetBlock (s : State) : State :=
  { State.resetWith s.cfg with
    inEpoch := s.inEpoch + 1
    hostQueue := s.hostQueue
    hostData := s.hostData
    busyReads := s.busyReads }

/-- One host action. -/
def hostAct (s : State) : HostAction → Host.Outcome State Fault Refusal
  | .write width offset v => hostWrite s width offset v
  | .read width offset => hostRead s width offset
  | .loadIn bytes => hostSupply s (Memory.ofBytes bytes)
  | .pokeIn addr b => hostSupply s (s.inMem.write addr b)
  | .copyOutToIn => hostSupply s (Memory.ofBytes s.out)
  | .sizeIn => hostSizeIn s
  | .await => .next s
  | .reset => .next s.resetBlock

/-- The host takes its first pending action; with none pending nothing happens and all state persists
(R217). -/
def hostTurn (s : State) : Host.Outcome State Fault Refusal :=
  match s.hostQueue with
  | [] => .next s
  | a :: rest => hostAct { s with hostQueue := rest } a

/-- The block's turn: a command was started, and the host has no action it makes while BUSY = 1 (R64, R233;
log entry 5). -/
def State.blockTurn (s : State) : Bool :=
  s.busy && match s.hostQueue with
    | [] => true
    | .await :: _ => true
    | _ => false

/-- The host has just written command word `w` to CMD and waits for BUSY = 0 (R80, R233; log entry 1). -/
def State.startCommand (s : State) (w : Word) : State :=
  { s with cmd := w, busy := true, hostQueue := .await :: s.hostQueue }

end Sys2Proof.Machine
end

