-- ==== Sys2Proof/Machine/Step.lean ====
section
/-! DEFINITION. One step: the block performs the command in CMD (spec/30_encoding.md R80, R84), or the host takes its
next action. -/

namespace Sys2Proof.Machine

/-- The block decodes the command word and performs it (R80, R86). -/
def blockStep (s : State) : Host.Outcome State Fault Refusal :=
  match decode s.fetch with
  | .ok i => exec i s
  | .error _ => s.illegal

/-- One step of the block with its host (R14, R64; log entry 5). -/
def step (s : State) : Host.Outcome State Fault Refusal :=
  if s.blockTurn then blockStep s else hostTurn s

/-- `s` with the word `w` of `nbits` bits as the command the next step performs: the host's CMD write has just
happened (log entry 1). -/
def State.withFetchWord (s : State) (nbits w : Nat) : State := s.startCommand (BitVec.ofNat 32 (w % 2 ^ nbits))

end Sys2Proof.Machine
end

