-- ==== Sys2Proof/Safety.lean ====
section
/-! DEFINITION. What a legal state of the block is (spec/10_state.md R20, R22, R23, spec/00_scope.md R8, R9), and what a
life of one session is, in the terms the statements use. -/

namespace Sys2Proof.Machine

/-- The invariants of the session record (R23, with R20, R22 and R142 for IDLE). -/
structure Session.Inv (x : Session) (maxCap : Nat) : Prop where
  /-- Without a session the record is the cleared one (R20, R36, R142). -/
  idle : x.state = .idle → x = Session.none
  /-- (b), (c): a session has 1 to 16 channels. -/
  channels : x.state ≠ .idle → 1 ≤ x.channelCount.toNat ∧ x.channelCount.toNat ≤ 16
  /-- (a): a used channel holds exactly sample_count samples. -/
  used : ∀ c : Fin 16, c.val < x.channelCount.toNat →
    x.buffers[c].used = x.buffers[c].data.length ∧ x.buffers[c].used = x.sampleCount.toNat
  /-- (d): used ≤ capacity ≤ MAX_CAP. -/
  bounded : ∀ c : Fin 16, c.val < x.channelCount.toNat →
    x.buffers[c].used ≤ x.buffers[c].capacity ∧ x.buffers[c].capacity ≤ maxCap
  /-- (d), R9: a capacity is 8000 · 2^j. -/
  geometric : ∀ c : Fin 16, c.val < x.channelCount.toNat → ∃ j : Nat, x.buffers[c].capacity = 8000 * 2 ^ j
  /-- (e): the used channels' capacities are equal. -/
  equalCaps : ∀ c d : Fin 16, c.val < x.channelCount.toNat → d.val < x.channelCount.toNat →
    x.buffers[c].capacity = x.buffers[d].capacity
  /-- R22: an unused channel's buffer is empty with capacity 0. -/
  unused : ∀ c : Fin 16, x.channelCount.toNat ≤ c.val → x.buffers[c] = ChannelBuffer.empty

/-- A legal state: legal parameters (R8), a legal session record (R23), IN in canonical form. -/
structure State.Inv (s : State) : Prop where
  cfg : s.cfg.legal = true
  sess : s.sess.Inv s.cfg.maxCap
  inMem : s.inMem.wf = true

/-- The next step performs the command `i`. -/
def State.performs (s : State) (i : Instr) : Prop := s.blockTurn = true ∧ decode s.fetch = .ok i

/-- The next step is the host's action `a`. -/
def State.hostDoes (s : State) (a : HostAction) : Prop :=
  s.blockTurn = false ∧ ∃ rest, s.hostQueue = a :: rest

/-- The next step ends the session: CLOSE or reset (R136, R142, R205). -/
def State.endsSession (s : State) : Prop := s.performs .closeSession ∨ s.hostDoes .reset

/-- `t` is reached from `s` by steps none of which ends the session. -/
inductive SessionLife : State → State → Prop where
  | here (s : State) : SessionLife s s
  | step {s t u : State} (life : SessionLife s t) (lives : ¬ t.endsSession) (next : step t = .next u) :
    SessionLife s u

/-- `exec i s` is the abort of R203 with code `e`: STATUS.CODE written, OUT empty, BUSY back to 0, all else as
it stands. -/
def abortsWith (i : Instr) (s : State) (e : StatusCode) : Prop :=
  exec i s = .next { s with code := e, out := [], busy := false }

/-- IN begins with the magic literal (R111, R116). -/
def State.inStartsWithMagic (s : State) : Prop :=
  s.inByte 0 = 0x61#8 ∧ s.inByte 1 = 0x73#8 ∧ s.inByte 2 = 0x69#8 ∧ s.inByte 3 = 0x66#8

/-- IN holds at least a header and begins with the magic literal (R113). -/
def State.inHoldsHeader (s : State) : Prop := 14 ≤ s.inLen.toNat ∧ s.inStartsWithMagic

/-- channel_count of the header in IN: bytes 8 and 9, little-endian (R62). -/
def State.inChannels (s : State) : Half := (s.inByte 9 ++ s.inByte 8 : BitVec 16)

/-- sample_rate of the header in IN: bytes 4 to 7, little-endian (R62). -/
def State.inRate (s : State) : Word := (s.inByte 7 ++ s.inByte 6 ++ s.inByte 5 ++ s.inByte 4 : BitVec 32)

/-- sample_count of the header in IN: bytes 10 to 13, little-endian (R62). -/
def State.inCount (s : State) : Word := (s.inByte 13 ++ s.inByte 12 ++ s.inByte 11 ++ s.inByte 10 : BitVec 32)

/-- Two states present the same IN (R185): the same length, the same bytes below it. -/
def sameIn (s t : State) : Prop := s.inLen = t.inLen ∧ ∀ a, a < s.inLen.toNat → s.inByte a = t.inByte a

/-- A delta emitted for the samples `prev`, `cur` with no catchup: the clipped true difference (R164, R165). -/
def plainDelta (prev cur : Byte) : Byte := tc8 (max (-128) (min 127 ((cur.toNat : Int) - prev.toNat)))

/-- What R241 forbids the host: (a) to (c) while BUSY = 1, (d) at any time. Every supply of IN counts as a change under (c), and a
write of a read-only register is not forbidden (log entry 15); (d) holds at 0x40 and above too (log entry 13). -/
def HostAction.forbidden (busy : Bool) : HostAction → Prop
  | .write width offset _ => width ≠ 32 ∨ offset % 4 ≠ 0 ∨ (busy = true ∧ offset ∈ [0x00, 0x04, 0x08, 0x0C, 0x10])
  | .read width offset => width ≠ 32 ∨ offset % 4 ≠ 0
  | .loadIn _ | .pokeIn _ _ | .copyOutToIn | .sizeIn => busy = true
  | .await | .reset => False

/-- Every difference of consecutive samples is in the range of a delta, so none clips (R164, R169). -/
def noClip (samples : List Byte) : Prop :=
  ∀ i a b, samples[i]? = some a → samples[i + 1]? = some b →
    -128 ≤ (b.toNat : Int) - a.toNat ∧ (b.toNat : Int) - a.toNat ≤ 127

end Sys2Proof.Machine
end

