-- ==== Sys2Proof/Certificates/Slice0/Obligations.lean ====
section
/-! DEFINITION. The statements about the ASIF codec core, from the numbered rules of spec/. Each docstring names the
rule it formalises. Where a clause is the model's choice, it names the log entry. -/

open Sys2Proof Sys2Proof.Machine

/-! ### Reset and invariants -/

/-- R36: the value of every piece of state after reset, whatever the parameters of R8 are. -/
def Obligations.ResetGivesTheStatedValues : Prop :=
  ∀ c : Config, ∀ s, s = State.resetWith c →
    s.sess.state = .idle ∧ s.sess.sampleRate = 0#32 ∧ s.sess.channelCount = 0#16 ∧ s.sess.sampleCount = 0#32 ∧
    (∀ i : Fin 16, s.sess.buffers[i] = { data := [], used := 0, capacity := 0 }) ∧
    s.cmd = 0#32 ∧ s.arg0 = 0#32 ∧ s.arg1 = 0#32 ∧ s.arg2 = 0#32 ∧ s.inLen = 0#32 ∧
    s.readReg .status = 0x00000000#32 ∧ s.busy = false ∧
    s.res0 = 0#32 ∧ s.res1 = 0#32 ∧ s.res2 = 0#32 ∧ s.out = [] ∧ s.readReg .outLen = 0#32

/-- R230: reset, asserted at any time, a command in progress included, gives every piece of state its value of
R36. That the parameters and the host's remaining actions stay is the model's choice (log entry 11). -/
def Obligations.ResetActionGivesTheResetValues : Prop :=
  ∀ (s : State) rest, s.hostQueue = .reset :: rest →
    ∃ t, step s = .next t ∧ t.sess = (State.resetWith s.cfg).sess ∧ t.cmd = 0#32 ∧
      t.arg0 = 0#32 ∧ t.arg1 = 0#32 ∧ t.arg2 = 0#32 ∧ t.inLen = 0#32 ∧ t.code = .ok ∧ t.busy = false ∧
      t.res0 = 0#32 ∧ t.res1 = 0#32 ∧ t.res2 = 0#32 ∧ t.out = [] ∧ t.cfg = s.cfg ∧ t.hostQueue = rest

/-- The invariant of R23 (with R8, R20 and R22) holds at reset for every legal choice of the parameters. -/
def Obligations.ResetMeetsTheInvariant : Prop :=
  ∀ c : Config, c.legal = true → (State.resetWith c).Inv

/-- R23, R144 (a), R9: every step, a command's or the host's, keeps the invariant. -/
def Obligations.EveryStepKeepsTheInvariant : Prop :=
  ∀ (s t : State), s.Inv → step s = .next t → t.Inv

/-! ### Steps and decoding -/

/-- R80, R86: when the block has its turn and CMD holds a command, the step is that command's; and the block has
its turn exactly while BUSY = 1 and the host waits or has nothing to do (log entry 5). -/
def Obligations.StepRunsTheDecodedCommand : Prop :=
  (∀ s i, s.blockTurn = true → decode s.cmd = .ok i → step s = exec i s) ∧
  (∀ s : State, s.blockTurn = true ↔ s.busy = true ∧ (s.hostQueue = [] ∨ ∃ rest, s.hostQueue = .await :: rest))

/-- R80, R59: a host write to CMD stores the word and sets BUSY; then, the host waiting, the block performs the
command. -/
def Obligations.CmdWriteStartsTheCommand : Prop :=
  ∀ s w rest, s.busy = false → s.hostQueue = .write 32 0x00 w :: .await :: rest →
    ∃ t, step s = .next t ∧ t = { s with cmd := w, busy := true, hostQueue := .await :: rest } ∧
      ∀ i, decode w = .ok i → step t = exec i t

/-- R84: an illegal command word empties OUT, writes INVALID_COMMAND, and changes nothing else but BUSY, which goes
back to 0. -/
def Obligations.IllegalWordReportsInvalidCommand : Prop :=
  ∀ s : State, s.blockTurn = true →
    (s.cmd.extractLsb' 8 24 ≠ 0#24 ∨
      s.cmd.extractLsb' 0 8 ∉ [0x01#8, 0x02#8, 0x03#8, 0x10#8, 0x11#8, 0x12#8, 0x13#8, 0x14#8, 0x20#8]) →
    step s = .next { s with out := [], code := .invalidCommand, busy := false }

/-- R86, R82: over all 32-bit words, a word decodes to a command exactly when it is that row's word of the
opcode map. -/
def Obligations.DecodeIsTheOpcodeMap : Prop :=
  ∀ (w : Word) (i : Instr), decode w = .ok i ↔
    (w, i) ∈ [(0x00000001#32, Instr.hdrEnc), (0x00000002#32, .hdrDec), (0x00000003#32, .probe),
      (0x00000010#32, .openSession), (0x00000011#32, .ingest), (0x00000012#32, .endStream),
      (0x00000013#32, .finalize), (0x00000014#32, .closeSession), (0x00000020#32, .decodePacket)]

/-- R82, R84: some words, and words next to them that are no command (vectors X1 to X5 of
spec/95_test_vectors.md). -/
def Obligations.SomeWordsDecodeAsTheTableSays : Prop :=
  decode 0b00000000000000000000000000010001#32 = .ok .ingest ∧
  decode 0b00000000000000000000000000100000#32 = .ok .decodePacket ∧
  decode 0x00000000#32 = .error (.unassignedOpcode 0x00#8) ∧
  decode 0x00000101#32 = .error (.reservedBits 0x000001#24) ∧
  decode 0x000000FF#32 = .error (.unassignedOpcode 0xFF#8) ∧
  decode 0x00000004#32 = .error (.unassignedOpcode 0x04#8) ∧
  decode 0x80000010#32 = .error (.reservedBits 0x800000#24)

/-- R51, R86: decode and encode agree, as bytes in the register's byte order and as words: the bytes of a command's
word decode to that command, whatever follows them; the bytes of any word decode to what the word decodes to; and
only a command's own word decodes to it. -/
def Obligations.DecodeAndEncodeAgree : Prop :=
  (∀ i rest, decodeBytes (encodeBytes i ++ rest) = .ok (i, rest)) ∧
  (∀ w rest i, decodeBytes (le32 w ++ rest) = .ok (i, rest) ↔ decode w = .ok i) ∧
  (∀ w i, decode w = .ok i → w = encode i)

/-! ### Rules over all commands -/

/-- R250, R80, R200: every command, from every state, completes with BUSY = 0; none traps. -/
def Obligations.EveryCommandCompletes : Prop :=
  ∀ i s, ∃ t, exec i s = .next t ∧ t.busy = false

/-- R30, R35, R52: no command writes CMD, an ARG register, IN_LEN, IN or a parameter (the frame all nine commands
share). That the host's queue and its latch stay is the model's choice (log entry 2). -/
def Obligations.CommandsLeaveTheHostSideUnchanged : Prop :=
  ∀ i s t, exec i s = .next t →
    t.cfg = s.cfg ∧ t.cmd = s.cmd ∧ t.arg0 = s.arg0 ∧ t.arg1 = s.arg1 ∧ t.arg2 = s.arg2 ∧ t.inLen = s.inLen ∧
    t.inMem = s.inMem ∧ (∀ a, t.inByte a = s.inByte a) ∧ t.hostQueue = s.hostQueue ∧ t.hostData = s.hostData ∧
    t.inEpoch = s.inEpoch ∧ t.busyReads = s.busyReads

/-- R27: RES0 to RES2 are written only by a command that completes with OK, and only by HDR_DEC, PROBE (RES0) and
DECODE. -/
def Obligations.ResultsAreWrittenOnlyBySuccess : Prop :=
  ∀ i s t, exec i s = .next t →
    (t.code ≠ .ok → t.res0 = s.res0 ∧ t.res1 = s.res1 ∧ t.res2 = s.res2) ∧
    (i = .probe → t.res1 = s.res1 ∧ t.res2 = s.res2) ∧
    (i ∉ [Instr.hdrDec, .probe, .decodePacket] → t.res0 = s.res0 ∧ t.res1 = s.res1 ∧ t.res2 = s.res2)

/-- R203: a command that ends with a code other than OK leaves OUT empty, OUT_LEN 0, RES0 to RES2 unchanged, and the
session unchanged but for the move to FAILED by INGEST's growth failure; STATUS shows the code and the state. -/
def Obligations.ErrorsAbortWithoutEffect : Prop :=
  ∀ i s t, exec i s = .next t → t.code ≠ .ok →
    t.out = [] ∧ t.readReg .outLen = 0#32 ∧ t.res0 = s.res0 ∧ t.res1 = s.res1 ∧ t.res2 = s.res2 ∧
    (t.sess = s.sess ∨
      (i = .ingest ∧ s.sess.state = .opened ∧ t.code = .allocationFailure ∧
        t.sess = { s.sess with state := .failed })) ∧
    (t.readReg .status).extractLsb' 0 8 = t.code.toByte ∧
    (t.readReg .status).extractLsb' 8 3 = t.sess.state.toBits

/-- R201: the codes each command can end with. -/
def Obligations.CommandsRaiseOnlyTheirCodes : Prop :=
  ∀ i s t, exec i s = .next t →
    t.code ∈ (match i with
      | .hdrEnc => [StatusCode.ok, .invalidArgument]
      | .hdrDec => [.ok, .formatMismatch]
      | .probe => [.ok]
      | .openSession => [.ok, .stateError, .invalidArgument]
      | .ingest => [.ok, .stateError, .allocationFailure, .invalidArgument]
      | .endStream => [.ok, .stateError, .allocationFailure]
      | .finalize => [.ok, .stateError, .notReady, .exhaustedStream, .allocationFailure]
      | .closeSession => [.ok]
      | .decodePacket => [.ok, .formatMismatch, .invalidArgument, .truncatedInput])

/-- R130: each session command's resulting state and status, cell by cell of the state machine. -/
def Obligations.SessionCommandsFollowTheStateMachine : Prop :=
  ∀ i s t, exec i s = .next t → ∀ r, r = (t.sess.state, t.code) →
    match i, s.sess.state with
    | .openSession, .idle => r = (.opened, .ok) ∨ r = (.idle, .invalidArgument)
    | .openSession, x => r = (x, .stateError)
    | .ingest, .opened => r = (.opened, .ok) ∨ r = (.opened, .invalidArgument) ∨ r = (.failed, .allocationFailure)
    | .ingest, .failed => r = (.failed, .allocationFailure)
    | .ingest, x => r = (x, .stateError)
    | .endStream, .idle => r = (.idle, .stateError)
    | .endStream, .opened => r = (.ended, .ok)
    | .endStream, .ended => r = (.ended, .ok)
    | .endStream, .done => r = (.done, .ok)
    | .endStream, .failed => r = (.failed, .allocationFailure)
    | .finalize, .idle => r = (.idle, .stateError)
    | .finalize, .opened => r = (.opened, .notReady)
    | .finalize, .ended => r = (.done, .ok)
    | .finalize, .done => r = (.done, .exhaustedStream)
    | .finalize, .failed => r = (.failed, .allocationFailure)
    | .closeSession, _ => r = (.idle, .ok)
    | _, x => t.sess = s.sess ∧ r.1 = x

/-- R130, R136, R185: HDR_ENC, HDR_DEC, PROBE and DECODE neither read nor change the session, in any state. -/
def Obligations.CodecCommandsIgnoreTheSession : Prop :=
  ∀ i ∈ [Instr.hdrEnc, .hdrDec, .probe, .decodePacket], ∀ s x,
    ∃ t, exec i s = .next t ∧ t.sess = s.sess ∧ exec i { s with sess := x } = .next { t with sess := x }

/-- R144 (d): a command adds k to sample_count when it is an INGEST that completes with OK; a successful OPEN and a CLOSE
set it to 0; nothing else changes it. -/
def Obligations.SampleCountCountsIngestedSamples : Prop :=
  ∀ i s t, exec i s = .next t →
    t.sess.sampleCount =
      if i = .ingest ∧ t.code = .ok then s.sess.sampleCount + s.arg0
      else if (i = .openSession ∧ t.code = .ok) ∨ i = .closeSession then 0#32
      else s.sess.sampleCount

/-- R135: while a session lives, no command lowers a channel's capacity. -/
def Obligations.CapacityNeverShrinksInASession : Prop :=
  ∀ i s t (c : Fin 16), exec i s = .next t → s.sess.state ≠ .idle → i ≠ .closeSession →
    s.sess.buffers[c].capacity ≤ t.sess.buffers[c].capacity

/-- R24, R134, R135: from one state of a living session to a later one, with no CLOSE and no reset between, sample_rate and
channel_count stay, each channel's samples stay as a prefix of what it holds later, and no capacity shrinks. -/
def Obligations.SessionKeepsItsHeaderAndSamples : Prop :=
  ∀ (s t : State), SessionLife s t → s.sess.state ≠ .idle →
    t.sess.state ≠ .idle ∧ t.sess.sampleRate = s.sess.sampleRate ∧ t.sess.channelCount = s.sess.channelCount ∧
    ∀ c : Fin 16, s.sess.buffers[c].data <+: t.sess.buffers[c].data ∧
      s.sess.buffers[c].capacity ≤ t.sess.buffers[c].capacity

/-- R144 (c), R140, R242: once the packet has been produced, the session stays as it is until CLOSE or reset, and every
FINALIZE gives EXHAUSTED_STREAM with OUT empty. -/
def Obligations.PacketIsProducedOnce : Prop :=
  ∀ (s t : State), SessionLife s t → s.sess.state = .done →
    t.sess = s.sess ∧ abortsWith .finalize t .exhaustedStream

/-! ### Header codec -/

/-- R114: HDR_ENC. The header's bytes are magic, rate, channel count and sample count, each little-endian; a nonzero
ARG1[31:16] is refused. -/
def Obligations.HdrEncWritesTheHeader : Prop :=
  ∀ s : State,
    (s.arg1.extractLsb' 16 16 ≠ 0#16 → abortsWith .hdrEnc s .invalidArgument) ∧
    (s.arg1.extractLsb' 16 16 = 0#16 → ∃ t, exec .hdrEnc s = .next t ∧ t.readReg .outLen = 14#32 ∧
      t = { s with
        out := [0x61#8, 0x73#8, 0x69#8, 0x66#8,
          s.arg0.extractLsb' 0 8, s.arg0.extractLsb' 8 8, s.arg0.extractLsb' 16 8, s.arg0.extractLsb' 24 8,
          s.arg1.extractLsb' 0 8, s.arg1.extractLsb' 8 8,
          s.arg2.extractLsb' 0 8, s.arg2.extractLsb' 8 8, s.arg2.extractLsb' 16 8, s.arg2.extractLsb' 24 8]
        code := .ok
        busy := false })

/-- R115: HDR_DEC. The fields are read little-endian from bytes 4 to 13; a short input or a wrong magic gives
FORMAT_MISMATCH. -/
def Obligations.HdrDecReadsTheHeader : Prop :=
  ∀ s : State,
    (s.inLen.toNat < 14 → abortsWith .hdrDec s .formatMismatch) ∧
    (¬ s.inStartsWithMagic → abortsWith .hdrDec s .formatMismatch) ∧
    (14 ≤ s.inLen.toNat → s.inStartsWithMagic →
      exec .hdrDec s = .next { s with
        res0 := (s.inByte 7 ++ s.inByte 6 ++ s.inByte 5 ++ s.inByte 4 : BitVec 32)
        res1 := (0#16 ++ s.inByte 9 ++ s.inByte 8 : BitVec 32)
        res2 := (s.inByte 13 ++ s.inByte 12 ++ s.inByte 11 ++ s.inByte 10 : BitVec 32)
        out := []
        code := .ok
        busy := false })

/-- R116: PROBE. RES0 is CONF_MAX exactly when IN has four bytes and they are the magic, else 0; always OK. -/
def Obligations.ProbeReportsConfidence : Prop :=
  ∀ s : State,
    (4 ≤ s.inLen.toNat → s.inStartsWithMagic →
      exec .probe s = .next { s with res0 := s.cfg.confMax, out := [], code := .ok, busy := false }) ∧
    (s.inLen.toNat < 4 ∨ ¬ s.inStartsWithMagic →
      exec .probe s = .next { s with res0 := 0#32, out := [], code := .ok, busy := false })

/-- R118: an input of 4 to 13 bytes beginning with the magic is recognised by PROBE and rejected by HDR_DEC and
DECODE. -/
def Obligations.ShortInputIsRecognisedButNotParsed : Prop :=
  ∀ s : State, 4 ≤ s.inLen.toNat → s.inLen.toNat ≤ 13 → s.inStartsWithMagic →
    exec .probe s = .next { s with res0 := s.cfg.confMax, out := [], code := .ok, busy := false } ∧
    abortsWith .hdrDec s .formatMismatch ∧ abortsWith .decodePacket s .formatMismatch

/-- R117: HeaderDecode and HeaderEncode are inverse, both ways, on every field value. -/
def Obligations.HeaderCodecRoundTrips : Prop :=
  (∀ rate channels count, headerDecode (headerEncode rate channels count) =
    some { rate := rate, channels := channels, count := count }) ∧
  (∀ bs : List Byte, 14 ≤ bs.length → bs.take 4 = [0x61#8, 0x73#8, 0x69#8, 0x66#8] →
    ∃ h, headerDecode bs = some h ∧ headerEncode h.rate h.channels h.count = bs.take 14)

/-- R57, R115, R116, I18: HDR_DEC reads bytes 0 to 13 of IN and only when IN_LEN is at least 14, and PROBE bytes 0 to 3 and only
when IN_LEN is at least 4: for every IN_LEN, no other byte affects either. -/
def Obligations.HeaderCommandsReadOnlyTheirBytes : Prop :=
  ∀ s m u, u = { s with inMem := m } →
    ((∀ a, 14 ≤ s.inLen.toNat → a < 14 → u.inByte a = s.inByte a) →
      ∃ t, exec .hdrDec s = .next t ∧ exec .hdrDec u = .next { t with inMem := m }) ∧
    ((∀ a, 4 ≤ s.inLen.toNat → a < 4 → u.inByte a = s.inByte a) →
      ∃ t, exec .probe s = .next t ∧ exec .probe u = .next { t with inMem := m })

/-! ### Frame accumulator -/

/-- R131: OPEN, its checks in their order and the session it creates. -/
def Obligations.OpenCreatesTheSession : Prop :=
  ∀ s : State,
    (s.sess.state ≠ .idle → abortsWith .openSession s .stateError) ∧
    (s.sess.state = .idle → s.arg1.extractLsb' 16 16 ≠ 0#16 → abortsWith .openSession s .invalidArgument) ∧
    (s.sess.state = .idle → s.arg1.extractLsb' 16 16 = 0#16 →
      ∀ cc : Half, cc = s.arg1.extractLsb' 0 16 →
        (cc.toNat < 1 ∨ 16 < cc.toNat → abortsWith .openSession s .invalidArgument) ∧
        (1 ≤ cc.toNat → cc.toNat ≤ 16 →
          ∃ x, exec .openSession s = .next { s with sess := x, out := [], code := .ok, busy := false } ∧
            x.state = .opened ∧ x.sampleRate = s.arg0 ∧ x.channelCount = cc ∧ x.sampleCount = 0#32 ∧
            ∀ c : Fin 16, x.buffers[c] = { data := [], used := 0, capacity := if c.val < cc.toNat then 8000 else 0 }))

/-- R132, R133, R134: an INGEST that completes appends IN[c·k .. (c+1)·k) to each of the session's channels, in order,
takes each channel's grown capacity, adds k to the counts, and changes nothing else. -/
def Obligations.IngestAppendsThePlanarFrame : Prop :=
  ∀ s (k cc : Nat), k = s.arg0.toNat → cc = s.sess.channelCount.toNat →
    s.sess.state = .opened → s.inLen.toNat = cc * k →
    (∀ c : Fin 16, c.val < cc → grow s.sess.buffers[c].capacity (s.sess.buffers[c].used + k) ≤ s.cfg.maxCap) →
    ∃ x, exec .ingest s = .next { s with sess := x, out := [], code := .ok, busy := false } ∧
      x.state = .opened ∧ x.sampleRate = s.sess.sampleRate ∧ x.channelCount = s.sess.channelCount ∧
      x.sampleCount = s.sess.sampleCount + s.arg0 ∧
      (∀ c : Fin 16, c.val < cc →
        x.buffers[c].data = s.sess.buffers[c].data ++ (List.range k).map (fun i => s.inByte (c.val * k + i)) ∧
        x.buffers[c].used = s.sess.buffers[c].used + k ∧
        x.buffers[c].capacity = grow s.sess.buffers[c].capacity (s.sess.buffers[c].used + k)) ∧
      (∀ c : Fin 16, cc ≤ c.val → x.buffers[c] = s.sess.buffers[c])

/-- R132, R201, R202: INGEST's errors before growth: the session state first, then the frame's length. -/
def Obligations.IngestChecksStateThenLength : Prop :=
  ∀ s : State,
    (s.sess.state = .idle ∨ s.sess.state = .ended ∨ s.sess.state = .done → abortsWith .ingest s .stateError) ∧
    (s.sess.state = .failed → abortsWith .ingest s .allocationFailure) ∧
    (s.sess.state = .opened → s.inLen.toNat ≠ s.sess.channelCount.toNat * s.arg0.toNat →
      abortsWith .ingest s .invalidArgument)

/-- R136: in OPEN with a well-shaped frame, INGEST fails exactly when some channel's grown capacity exceeds MAX_CAP, and
then only the session state changes, to FAILED. Stated for the channel counts a session can have (R23 (c)). -/
def Obligations.GrowthBeyondTheLimitFailsTheSession : Prop :=
  ∀ s (k : Nat), k = s.arg0.toNat → s.sess.state = .opened → s.sess.channelCount.toNat ≤ 16 →
    s.inLen.toNat = s.sess.channelCount.toNat * k →
    ((∃ c : Fin 16, c.val < s.sess.channelCount.toNat ∧
        s.cfg.maxCap < grow s.sess.buffers[c].capacity (s.sess.buffers[c].used + k)) ↔
      exec .ingest s = .next { s with
        sess := { s.sess with state := .failed }, code := .allocationFailure, out := [], busy := false })

/-- R136, R205: in FAILED, INGEST, END and FINALIZE give ALLOCATION_FAILURE and OPEN gives STATE_ERROR, with no change;
CLOSE leaves FAILED. -/
def Obligations.FailedSessionAnswersOnlyToClose : Prop :=
  ∀ s : State, s.sess.state = .failed →
    abortsWith .ingest s .allocationFailure ∧ abortsWith .endStream s .allocationFailure ∧
    abortsWith .finalize s .allocationFailure ∧ abortsWith .openSession s .stateError ∧
    ∃ t, exec .closeSession s = .next t ∧ t.sess.state = .idle

/-- R136, R205: FAILED is left only by CLOSE or reset: no other step changes a failed session. -/
def Obligations.FailureIsTerminal : Prop :=
  ∀ (s t : State), SessionLife s t → s.sess.state = .failed → t.sess = s.sess

/-- R135: Grow obeys the spec's recursion for every capacity above 0, and its result is the least cap · 2^m that is at
least the need. -/
def Obligations.GrowDoublesUntilSufficient : Prop :=
  ∀ cap need : Nat, 0 < cap →
    (need ≤ cap → grow cap need = cap) ∧
    (cap < need → grow cap need = grow (2 * cap) need) ∧
    ∃ m, grow cap need = cap * 2 ^ m ∧ need ≤ cap * 2 ^ m ∧ ∀ n, n < m → cap * 2 ^ n < need

/-- R137: END. -/
def Obligations.EndSignalsEndOfStream : Prop :=
  ∀ s : State,
    (s.sess.state = .idle → abortsWith .endStream s .stateError) ∧
    (s.sess.state = .failed → abortsWith .endStream s .allocationFailure) ∧
    (s.sess.state = .opened → exec .endStream s =
      .next { s with sess := { s.sess with state := .ended }, out := [], code := .ok, busy := false }) ∧
    (s.sess.state = .ended ∨ s.sess.state = .done → exec .endStream s =
      .next { s with out := [], code := .ok, busy := false })

/-- R140: FINALIZE's errors, state by state. -/
def Obligations.FinalizeReportsItsErrors : Prop :=
  ∀ s : State,
    (s.sess.state = .idle → abortsWith .finalize s .stateError) ∧
    (s.sess.state = .opened → abortsWith .finalize s .notReady) ∧
    (s.sess.state = .done → abortsWith .finalize s .exhaustedStream) ∧
    (s.sess.state = .failed → abortsWith .finalize s .allocationFailure)

/-- R140, R141: FINALIZE in ENDED puts the packet in OUT, moves the session to DONE, and changes nothing else; and in a
legal state the packet has 14 + cc·sc bytes. -/
def Obligations.FinalizeProducesThePacket : Prop :=
  ∀ s : State, s.sess.state = .ended →
    ∃ p, exec .finalize s =
        .next { s with sess := { s.sess with state := .done }, out := p, code := .ok, busy := false } ∧
      p.take 14 = headerEncode s.sess.sampleRate s.sess.channelCount s.sess.sampleCount ∧
      p.drop 14 = deltaEncodeAll s.cfg.catchupScope
        ((List.finRange 16).filterMap fun c =>
          if c.val < s.sess.channelCount.toNat then
            some (s.sess.buffers[c].data.take s.sess.sampleCount.toNat)
          else none) ∧
      (s.Inv → p.length = 14 + s.sess.channelCount.toNat * s.sess.sampleCount.toNat)

/-- R62, R141, R160, R167: under PER_CHANNEL, from a legal state, byte i of channel c's block is the raw first sample for
i = 0 and else the clipped true difference of samples i and i − 1. -/
def Obligations.PacketHoldsTheClippedDifferences : Prop :=
  ∀ (s t : State), s.Inv → s.sess.state = .ended → s.cfg.catchupScope = .perChannel → exec .finalize s = .next t →
    ∀ (c : Fin 16) (i : Nat), c.val < s.sess.channelCount.toNat → i < s.sess.sampleCount.toNat →
      ∀ (at_ : Nat), at_ = 14 + c.val * s.sess.sampleCount.toNat + i →
        (i = 0 → t.out[at_]? = s.sess.buffers[c].data[0]?) ∧
        (0 < i → ∃ prev cur, s.sess.buffers[c].data[i - 1]? = some prev ∧ s.sess.buffers[c].data[i]? = some cur ∧
          t.out[at_]? = some (plainDelta prev cur))

/-- R142: CLOSE is always OK and clears the session. -/
def Obligations.CloseClearsTheSession : Prop :=
  ∀ s : State, ∃ x, exec .closeSession s = .next { s with sess := x, out := [], code := .ok, busy := false } ∧
    x.state = .idle ∧ x.sampleRate = 0#32 ∧ x.channelCount = 0#16 ∧ x.sampleCount = 0#32 ∧
    ∀ c : Fin 16, x.buffers[c] = { data := [], used := 0, capacity := 0 }

/-! ### Delta encoder -/

/-- R163, R164, R165, R166: one iteration of the encoder: the amount is added only when the flag is pending and the previous
sample is 127, the flag is cleared, and a clip sets it again with the overflow. -/
def Obligations.EncoderIterationClipsAndRecords : Prop :=
  ∀ (prev cur : Byte) (k : Catchup) (d : Int),
    d = (cur.toNat : Int) - prev.toNat + (if k.pending = true ∧ prev = 127#8 then k.amount else 0) →
    (127 < d → encodeDelta prev cur k = (0x7F#8, { pending := true, amount := d - 127 })) ∧
    (d < -128 → encodeDelta prev cur k = (0x80#8, { pending := true, amount := d + 128 })) ∧
    (-128 ≤ d → d ≤ 127 →
      (encodeDelta prev cur k).1.toInt = d ∧ (encodeDelta prev cur k).2.pending = false)

/-- R161, R163, R168: DeltaEncodeChannel from every catchup state, and the state it hands on. With no sample or one the state passes
through. Each further sample is one iteration, from the state the iteration before it left (the incoming state for the first), and
the state of the last iteration is handed on. What one iteration does is EncoderIterationClipsAndRecords. -/
def Obligations.ChannelEncodingThreadsTheCatchupState : Prop :=
  ∀ k : Catchup,
    deltaEncodeChannel [] k = ([], k) ∧
    (∀ first, deltaEncodeChannel [first] k = ([first], k)) ∧
    (∀ first cur, deltaEncodeChannel [first, cur] k = ([first, (encodeDelta first cur k).1], (encodeDelta first cur k).2)) ∧
    ∀ samples prev cur, ∀ r, r = deltaEncodeChannel (samples ++ [prev]) k →
      deltaEncodeChannel (samples ++ [prev, cur]) k =
        (r.1 ++ [(encodeDelta prev cur r.2).1], (encodeDelta prev cur r.2).2)

/-- R167: within a channel whose catchup state starts cleared, the adjustment never fires: the block is the first sample
and then the clipped true differences. -/
def Obligations.CatchupNeverFiresWithinAChannel : Prop :=
  ∀ samples : List Byte,
    (deltaEncodeChannel samples Catchup.clear).1.length = samples.length ∧
    (deltaEncodeChannel samples Catchup.clear).1[0]? = samples[0]? ∧
    ∀ i a b, samples[i]? = some a → samples[i + 1]? = some b →
      (deltaEncodeChannel samples Catchup.clear).1[i + 1]? = some (plainDelta a b)

/-- R162: DeltaEncodeAll runs the channels in order; PER_CHANNEL clears the catchup state at each, PER_PACKET carries it on. -/
def Obligations.CatchupScopeDecidesTheCarry : Prop :=
  (∀ scope, deltaEncodeAll scope [] = []) ∧
  (∀ ch chs, deltaEncodeAll .perChannel (ch :: chs) =
    (deltaEncodeChannel ch Catchup.clear).1 ++ deltaEncodeAll .perChannel chs) ∧
  (∀ chs ch, deltaEncodeAll .perPacket (chs ++ [ch]) =
    deltaEncodeAll .perPacket chs ++
      (deltaEncodeChannel ch (chs.foldl (fun k c => (deltaEncodeChannel c k).2) Catchup.clear)).1)

/-- R169: under PER_CHANNEL, decoding an encoded channel gives back the samples exactly when no difference clips. -/
def Obligations.ChannelRoundTripsExactlyWithoutClipping : Prop :=
  ∀ samples : List Byte,
    deltaDecode (deltaEncodeChannel samples Catchup.clear).1 = samples ↔ noClip samples

/-! ### Delta decoder -/

/-- R180: DeltaDecode: the first byte raw, then each byte added to the sample before it modulo 256. -/
def Obligations.DeltaDecodeAddsModulo256 : Prop :=
  ∀ bs : List Byte,
    (deltaDecode bs).length = bs.length ∧ (deltaDecode bs)[0]? = bs[0]? ∧
    ∀ i prev b, (deltaDecode bs)[i]? = some prev → bs[i + 1]? = some b →
      ∃ cur, (deltaDecode bs)[i + 1]? = some cur ∧ cur.toNat = (prev.toNat + b.toNat) % 256

/-- R181, R202: DECODE's errors, in their order. -/
def Obligations.DecodeChecksInOrder : Prop :=
  ∀ s : State,
    (s.inLen.toNat < 14 ∨ ¬ s.inStartsWithMagic → abortsWith .decodePacket s .formatMismatch) ∧
    (s.inHoldsHeader → 16 < s.inChannels.toNat → abortsWith .decodePacket s .invalidArgument) ∧
    (s.inHoldsHeader → s.inChannels.toNat ≤ 16 →
      s.inLen.toNat < 14 + s.inChannels.toNat * s.inCount.toNat → abortsWith .decodePacket s .truncatedInput)

/-- R181, R183, R184: a DECODE that completes writes the header's fields to RES0 to RES2 and cc·sc samples to OUT, planar;
each channel's first sample is raw and each later one adds its delta; nothing else changes. -/
def Obligations.DecodeReconstructsEveryChannel : Prop :=
  ∀ s : State, s.inHoldsHeader → ∀ (cc sc : Nat), cc = s.inChannels.toNat → sc = s.inCount.toNat →
    cc ≤ 16 → 14 + cc * sc ≤ s.inLen.toNat →
    ∃ o, exec .decodePacket s = .next { s with
        res0 := s.inRate, res1 := s.inChannels.setWidth 32, res2 := s.inCount
        out := o, code := .ok, busy := false } ∧
      o.length = cc * sc ∧
      ∀ c i, c < cc → i < sc →
        (i = 0 → o[c * sc]? = some (s.inByte (14 + c * sc))) ∧
        (0 < i → ∃ prev, o[c * sc + (i - 1)]? = some prev ∧
          o[c * sc + i]? = some (prev + s.inByte (14 + c * sc + i)))

/-- R185: DECODE reads no state but IN and IN_LEN and writes only OUT, RES0 to RES2, STATUS.CODE (and BUSY): from two states
that present the same IN it gives the same code, output and results. -/
def Obligations.DecodeDependsOnlyOnItsInput : Prop :=
  ∀ s u, sameIn s u →
    ∃ code o r0 r1 r2,
      (code = StatusCode.ok →
        exec .decodePacket s = .next { s with res0 := r0, res1 := r1, res2 := r2, out := o, code := code, busy := false } ∧
        exec .decodePacket u = .next { u with res0 := r0, res1 := r1, res2 := r2, out := o, code := code, busy := false }) ∧
      (code ≠ StatusCode.ok →
        exec .decodePacket s = .next { s with out := o, code := code, busy := false } ∧
        exec .decodePacket u = .next { u with out := o, code := code, busy := false })

/-- R186, R169: for a legal session with no clipping difference in any channel, under either CATCHUP_SCOPE, DECODE of the packet
FINALIZE produced completes with the session's rate, channel count and sample count, and its samples, channel after
channel. The packet must fit IN_LEN (I9). -/
def Obligations.FinalizeThenDecodeReturnsTheSamples : Prop :=
  ∀ s t u, s.Inv → s.sess.state = .ended →
    (∀ c : Fin 16, c.val < s.sess.channelCount.toNat → noClip s.sess.buffers[c].data) →
    exec .finalize s = .next t →
    u.inLen.toNat = t.out.length → (∀ a b, t.out[a]? = some b → u.inByte a = b) →
    ∃ v, exec .decodePacket u = .next v ∧ v.code = .ok ∧
      v.res0 = s.sess.sampleRate ∧ v.res1 = s.sess.channelCount.setWidth 32 ∧ v.res2 = s.sess.sampleCount ∧
      v.out = ((s.sess.buffers.toList.take s.sess.channelCount.toNat).map ChannelBuffer.data).flatten

/-! ### The host's side -/

/-- R26, R90: the fields of STATUS between commands. -/
def Obligations.StatusShowsCodeStateAndBusy : Prop :=
  ∀ s : State,
    (s.readReg .status).extractLsb' 0 8 = (match s.code with
      | .ok => 0x00#8 | .formatMismatch => 0x01#8 | .truncatedInput => 0x02#8 | .allocationFailure => 0x03#8
      | .exhaustedStream => 0x04#8 | .notReady => 0x05#8 | .stateError => 0x10#8 | .invalidArgument => 0x11#8
      | .invalidCommand => 0x12#8) ∧
    (s.readReg .status).extractLsb' 8 3 = (match s.sess.state with
      | .idle => 0#3 | .opened => 1#3 | .ended => 2#3 | .done => 3#3 | .failed => 4#3) ∧
    (s.readReg .status).extractLsb' 11 20 = 0#20 ∧
    (s.readReg .status).getLsbD 31 = s.busy

/-- R25, R28, R29, R60: a 32-bit host read between commands returns the register at its offset, and changes nothing but the
host's latch (log entry 2). OUT_LEN is stated where the count fits 32 bits (log entry 8), SESS_CAP where the capacity
does (R9). -/
def Obligations.HostReadsFollowTheRegisterMap : Prop :=
  ∀ s offset rest, s.busy = false → s.hostQueue = .read 32 offset :: rest →
    ∀ v : Word,
      ((offset, v) ∈ [(0x00, s.cmd), (0x04, s.arg0), (0x08, s.arg1), (0x0C, s.arg2), (0x10, s.inLen),
          (0x14, s.statusWord), (0x18, s.res0), (0x1C, s.res1), (0x20, s.res2),
          (0x28, s.sess.sampleRate), (0x2C, s.sess.channelCount.setWidth 32), (0x30, s.sess.sampleCount),
          (0x38, 0#32), (0x3C, 0#32)] ∨
        (offset = 0x24 ∧ v.toNat = s.out.length) ∨
        (offset = 0x34 ∧ v.toNat = if 1 ≤ s.sess.channelCount.toNat then s.sess.buffers[0].capacity else 0)) →
      step s = .next { s with hostQueue := rest, hostData := v }

/-- R25, R59, R60: a 32-bit host write between commands stores in an operand register and is ignored by a read-only or
reserved one. That a write of IN_LEN opens a new epoch for bytes never supplied is the model's choice (log entry 6). -/
def Obligations.HostWritesFollowTheRegisterMap : Prop :=
  ∀ s offset v rest, s.busy = false → s.hostQueue = .write 32 offset v :: rest →
    (offset = 0x04 → step s = .next { s with hostQueue := rest, arg0 := v }) ∧
    (offset = 0x08 → step s = .next { s with hostQueue := rest, arg1 := v }) ∧
    (offset = 0x0C → step s = .next { s with hostQueue := rest, arg2 := v }) ∧
    (offset = 0x10 → step s = .next { s with hostQueue := rest, inLen := v, inEpoch := s.inEpoch + 1 }) ∧
    (offset ∈ [0x14, 0x18, 0x1C, 0x20, 0x24, 0x28, 0x2C, 0x30, 0x34, 0x38, 0x3C] →
      step s = .next { s with hostQueue := rest })

/-- R59, R217: a step of the host other than a reset changes neither the session, STATUS.CODE, the results nor OUT; and BUSY is
changed by nothing but a CMD write, which sets it. -/
def Obligations.HostActionsLeaveTheBlockAlone : Prop :=
  ∀ (s t : State), s.blockTurn = false → s.hostQueue.head? ≠ some .reset → step s = .next t →
    t.sess = s.sess ∧ t.code = s.code ∧ t.res0 = s.res0 ∧ t.res1 = s.res1 ∧ t.res2 = s.res2 ∧ t.out = s.out ∧
    t.cfg = s.cfg ∧
    ((∀ v, s.hostQueue.head? ≠ some (.write 32 0x00 v)) → t.busy = s.busy ∧ t.cmd = s.cmd)

/-- R241: the fault HOST_PROTOCOL is raised exactly by the host actions that R241 forbids: (a) to (c) while BUSY = 1, (d) at any
time. What counts under (c) is the model's reading (log entry 15, DEDUCED): every supply of IN while BUSY = 1 does, even one that
leaves every byte as it is, and a write of a read-only or reserved register then is no violation. That an access at 0x40 or above
which is misaligned or not 32 bits wide faults, and is not refused, is the model's reading too (log entry 13). -/
def Obligations.HostProtocolFaultsExactly : Prop :=
  ∀ s : State, (∃ v, step s = .fault (.hostProtocol v)) ↔
    ∃ a rest, s.hostQueue = a :: rest ∧ a.forbidden s.busy

/-- R60, I17: the only refusal of a step is an aligned 32-bit access at 0x40 or above, which does not reach the block. That it is a
refusal by name, and that a misaligned access there faults instead, is the model's form (log entry 13). -/
def Obligations.OnlyAccessesOutsideTheWindowAreRefused : Prop :=
  ∀ s r, step s = .refused r ↔
    ∃ offset rest, r = .offBlockAccess offset ∧ offset % 4 = 0 ∧ 0x40 ≤ offset ∧
      (s.hostQueue = .read 32 offset :: rest ∨ ∃ v, s.hostQueue = .write 32 offset v :: rest)

/-- R240, D27, I6: a 32-bit read of any register of the window while BUSY = 1 is allowed and has no side effect on the block; the
word it returns, STATUS's fields among it, is the free value of that read. That the free value is indexed by a counter of such
reads, which the read advances, is the model's choice (log entry 7). -/
def Obligations.BusyReadsReturnAnyValue : Prop :=
  ∀ (s : State) offset rest, s.busy = true → s.hostQueue = .read 32 offset :: rest → offset % 4 = 0 → offset < 0x40 →
    step s = .next { s with
      hostQueue := rest, hostData := Config.busyReadWord s.busyReads, busyReads := s.busyReads + 1 }

/-- R52, R91: what the host supplies as IN is what the commands read; a single byte it changes is changed and no other byte
it supplied. -/
def Obligations.SuppliedBytesAreRead : Prop :=
  (∀ s bytes rest, s.busy = false → s.hostQueue = .loadIn bytes :: rest →
    ∃ t, step s = .next t ∧ ∀ a b, bytes[a]? = some b → t.inByte a = b) ∧
  (∀ s rest, s.busy = false → s.hostQueue = .copyOutToIn :: rest →
    ∃ t, step s = .next t ∧ ∀ a b, s.out[a]? = some b → t.inByte a = b) ∧
  (∀ s addr v rest, s.busy = false → s.hostQueue = .pokeIn addr v :: rest →
    ∃ t, step s = .next t ∧ t.inByte addr = v ∧
      ∀ a b, a ≠ addr → s.inMem.read a = some b → t.inByte a = b)

/-- R91: `IN <- bytes; IN_LEN <- len(bytes)` and `IN <- OUT; IN_LEN <- len(IN)`, for fewer than 2^32 bytes: IN_LEN is their number,
each byte reads back, and the block's other state is as before. That the length is that of the IN the host last supplied is the
model's reading (log entry 15); a longer IN has no stated IN_LEN (log entry 8); the epoch is the model's own (log entry 6). -/
def Obligations.SizingInStoresItsLength : Prop :=
  ∀ (s : State) (bytes : List Byte) load rest,
    (load = .loadIn bytes ∨ (load = .copyOutToIn ∧ bytes = s.out)) →
    s.busy = false → bytes.length < 2 ^ 32 → s.hostQueue = load :: .sizeIn :: rest →
    ∃ t u, step s = .next t ∧ step t = .next u ∧
      u.inLen.toNat = bytes.length ∧ (∀ a b, bytes[a]? = some b → u.inByte a = b) ∧
      u.arg0 = s.arg0 ∧ u.arg1 = s.arg1 ∧ u.arg2 = s.arg2 ∧
      u = { s with inLen := u.inLen, inMem := u.inMem, inEpoch := u.inEpoch, hostQueue := rest }

/-- R217: between commands, with no host action, all state persists. -/
def Obligations.IdleBlockKeepsItsState : Prop :=
  ∀ s : State, s.busy = false → s.hostQueue = [] → step s = .next s
end

