-- ==== Sys2Proof/Laws/State.lean ====
section
/-! SUPPORT. For each named update of State, each field after it: true by rfl, for simp. -/

namespace Sys2Proof.Machine

variable (s : State)

/-! ### retire -/

@[simp] theorem State.retire_cfg (c : StatusCode) (o : List Byte) : (s.retire c o).cfg = s.cfg := rfl
@[simp] theorem State.retire_sess (c : StatusCode) (o : List Byte) : (s.retire c o).sess = s.sess := rfl
@[simp] theorem State.retire_cmd (c : StatusCode) (o : List Byte) : (s.retire c o).cmd = s.cmd := rfl
@[simp] theorem State.retire_arg0 (c : StatusCode) (o : List Byte) : (s.retire c o).arg0 = s.arg0 := rfl
@[simp] theorem State.retire_arg1 (c : StatusCode) (o : List Byte) : (s.retire c o).arg1 = s.arg1 := rfl
@[simp] theorem State.retire_arg2 (c : StatusCode) (o : List Byte) : (s.retire c o).arg2 = s.arg2 := rfl
@[simp] theorem State.retire_inLen (c : StatusCode) (o : List Byte) : (s.retire c o).inLen = s.inLen := rfl
@[simp] theorem State.retire_code (c : StatusCode) (o : List Byte) : (s.retire c o).code = c := rfl
@[simp] theorem State.retire_busy (c : StatusCode) (o : List Byte) : (s.retire c o).busy = false := rfl
@[simp] theorem State.retire_res0 (c : StatusCode) (o : List Byte) : (s.retire c o).res0 = s.res0 := rfl
@[simp] theorem State.retire_res1 (c : StatusCode) (o : List Byte) : (s.retire c o).res1 = s.res1 := rfl
@[simp] theorem State.retire_res2 (c : StatusCode) (o : List Byte) : (s.retire c o).res2 = s.res2 := rfl
@[simp] theorem State.retire_out (c : StatusCode) (o : List Byte) : (s.retire c o).out = o := rfl
@[simp] theorem State.retire_inMem (c : StatusCode) (o : List Byte) : (s.retire c o).inMem = s.inMem := rfl
@[simp] theorem State.retire_inEpoch (c : StatusCode) (o : List Byte) : (s.retire c o).inEpoch = s.inEpoch := rfl
@[simp] theorem State.retire_hostQueue (c : StatusCode) (o : List Byte) : (s.retire c o).hostQueue = s.hostQueue := rfl
@[simp] theorem State.retire_hostData (c : StatusCode) (o : List Byte) : (s.retire c o).hostData = s.hostData := rfl
@[simp] theorem State.retire_busyReads (c : StatusCode) (o : List Byte) : (s.retire c o).busyReads = s.busyReads := rfl

/-! ### withSession -/

@[simp] theorem State.withSession_cfg (x : Session) : (s.withSession x).cfg = s.cfg := rfl
@[simp] theorem State.withSession_sess (x : Session) : (s.withSession x).sess = x := rfl
@[simp] theorem State.withSession_cmd (x : Session) : (s.withSession x).cmd = s.cmd := rfl
@[simp] theorem State.withSession_arg0 (x : Session) : (s.withSession x).arg0 = s.arg0 := rfl
@[simp] theorem State.withSession_arg1 (x : Session) : (s.withSession x).arg1 = s.arg1 := rfl
@[simp] theorem State.withSession_arg2 (x : Session) : (s.withSession x).arg2 = s.arg2 := rfl
@[simp] theorem State.withSession_inLen (x : Session) : (s.withSession x).inLen = s.inLen := rfl
@[simp] theorem State.withSession_code (x : Session) : (s.withSession x).code = s.code := rfl
@[simp] theorem State.withSession_busy (x : Session) : (s.withSession x).busy = s.busy := rfl
@[simp] theorem State.withSession_res0 (x : Session) : (s.withSession x).res0 = s.res0 := rfl
@[simp] theorem State.withSession_res1 (x : Session) : (s.withSession x).res1 = s.res1 := rfl
@[simp] theorem State.withSession_res2 (x : Session) : (s.withSession x).res2 = s.res2 := rfl
@[simp] theorem State.withSession_out (x : Session) : (s.withSession x).out = s.out := rfl
@[simp] theorem State.withSession_inMem (x : Session) : (s.withSession x).inMem = s.inMem := rfl
@[simp] theorem State.withSession_inEpoch (x : Session) : (s.withSession x).inEpoch = s.inEpoch := rfl
@[simp] theorem State.withSession_hostQueue (x : Session) : (s.withSession x).hostQueue = s.hostQueue := rfl
@[simp] theorem State.withSession_hostData (x : Session) : (s.withSession x).hostData = s.hostData := rfl
@[simp] theorem State.withSession_busyReads (x : Session) : (s.withSession x).busyReads = s.busyReads := rfl

/-! ### withSessState -/

@[simp] theorem State.withSessState_cfg (st : SessState) : (s.withSessState st).cfg = s.cfg := rfl
@[simp] theorem State.withSessState_sess (st : SessState) : (s.withSessState st).sess = { s.sess with state := st } := rfl
@[simp] theorem State.withSessState_cmd (st : SessState) : (s.withSessState st).cmd = s.cmd := rfl
@[simp] theorem State.withSessState_arg0 (st : SessState) : (s.withSessState st).arg0 = s.arg0 := rfl
@[simp] theorem State.withSessState_arg1 (st : SessState) : (s.withSessState st).arg1 = s.arg1 := rfl
@[simp] theorem State.withSessState_arg2 (st : SessState) : (s.withSessState st).arg2 = s.arg2 := rfl
@[simp] theorem State.withSessState_inLen (st : SessState) : (s.withSessState st).inLen = s.inLen := rfl
@[simp] theorem State.withSessState_code (st : SessState) : (s.withSessState st).code = s.code := rfl
@[simp] theorem State.withSessState_busy (st : SessState) : (s.withSessState st).busy = s.busy := rfl
@[simp] theorem State.withSessState_res0 (st : SessState) : (s.withSessState st).res0 = s.res0 := rfl
@[simp] theorem State.withSessState_res1 (st : SessState) : (s.withSessState st).res1 = s.res1 := rfl
@[simp] theorem State.withSessState_res2 (st : SessState) : (s.withSessState st).res2 = s.res2 := rfl
@[simp] theorem State.withSessState_out (st : SessState) : (s.withSessState st).out = s.out := rfl
@[simp] theorem State.withSessState_inMem (st : SessState) : (s.withSessState st).inMem = s.inMem := rfl
@[simp] theorem State.withSessState_inEpoch (st : SessState) : (s.withSessState st).inEpoch = s.inEpoch := rfl
@[simp] theorem State.withSessState_hostQueue (st : SessState) : (s.withSessState st).hostQueue = s.hostQueue := rfl
@[simp] theorem State.withSessState_hostData (st : SessState) : (s.withSessState st).hostData = s.hostData := rfl
@[simp] theorem State.withSessState_busyReads (st : SessState) : (s.withSessState st).busyReads = s.busyReads := rfl

/-! ### withRes0 -/

@[simp] theorem State.withRes0_cfg (v : Word) : (s.withRes0 v).cfg = s.cfg := rfl
@[simp] theorem State.withRes0_sess (v : Word) : (s.withRes0 v).sess = s.sess := rfl
@[simp] theorem State.withRes0_cmd (v : Word) : (s.withRes0 v).cmd = s.cmd := rfl
@[simp] theorem State.withRes0_arg0 (v : Word) : (s.withRes0 v).arg0 = s.arg0 := rfl
@[simp] theorem State.withRes0_arg1 (v : Word) : (s.withRes0 v).arg1 = s.arg1 := rfl
@[simp] theorem State.withRes0_arg2 (v : Word) : (s.withRes0 v).arg2 = s.arg2 := rfl
@[simp] theorem State.withRes0_inLen (v : Word) : (s.withRes0 v).inLen = s.inLen := rfl
@[simp] theorem State.withRes0_code (v : Word) : (s.withRes0 v).code = s.code := rfl
@[simp] theorem State.withRes0_busy (v : Word) : (s.withRes0 v).busy = s.busy := rfl
@[simp] theorem State.withRes0_res0 (v : Word) : (s.withRes0 v).res0 = v := rfl
@[simp] theorem State.withRes0_res1 (v : Word) : (s.withRes0 v).res1 = s.res1 := rfl
@[simp] theorem State.withRes0_res2 (v : Word) : (s.withRes0 v).res2 = s.res2 := rfl
@[simp] theorem State.withRes0_out (v : Word) : (s.withRes0 v).out = s.out := rfl
@[simp] theorem State.withRes0_inMem (v : Word) : (s.withRes0 v).inMem = s.inMem := rfl
@[simp] theorem State.withRes0_inEpoch (v : Word) : (s.withRes0 v).inEpoch = s.inEpoch := rfl
@[simp] theorem State.withRes0_hostQueue (v : Word) : (s.withRes0 v).hostQueue = s.hostQueue := rfl
@[simp] theorem State.withRes0_hostData (v : Word) : (s.withRes0 v).hostData = s.hostData := rfl
@[simp] theorem State.withRes0_busyReads (v : Word) : (s.withRes0 v).busyReads = s.busyReads := rfl

/-! ### withResults -/

@[simp] theorem State.withResults_cfg (r0 r1 r2 : Word) : (s.withResults r0 r1 r2).cfg = s.cfg := rfl
@[simp] theorem State.withResults_sess (r0 r1 r2 : Word) : (s.withResults r0 r1 r2).sess = s.sess := rfl
@[simp] theorem State.withResults_cmd (r0 r1 r2 : Word) : (s.withResults r0 r1 r2).cmd = s.cmd := rfl
@[simp] theorem State.withResults_arg0 (r0 r1 r2 : Word) : (s.withResults r0 r1 r2).arg0 = s.arg0 := rfl
@[simp] theorem State.withResults_arg1 (r0 r1 r2 : Word) : (s.withResults r0 r1 r2).arg1 = s.arg1 := rfl
@[simp] theorem State.withResults_arg2 (r0 r1 r2 : Word) : (s.withResults r0 r1 r2).arg2 = s.arg2 := rfl
@[simp] theorem State.withResults_inLen (r0 r1 r2 : Word) : (s.withResults r0 r1 r2).inLen = s.inLen := rfl
@[simp] theorem State.withResults_code (r0 r1 r2 : Word) : (s.withResults r0 r1 r2).code = s.code := rfl
@[simp] theorem State.withResults_busy (r0 r1 r2 : Word) : (s.withResults r0 r1 r2).busy = s.busy := rfl
@[simp] theorem State.withResults_res0 (r0 r1 r2 : Word) : (s.withResults r0 r1 r2).res0 = r0 := rfl
@[simp] theorem State.withResults_res1 (r0 r1 r2 : Word) : (s.withResults r0 r1 r2).res1 = r1 := rfl
@[simp] theorem State.withResults_res2 (r0 r1 r2 : Word) : (s.withResults r0 r1 r2).res2 = r2 := rfl
@[simp] theorem State.withResults_out (r0 r1 r2 : Word) : (s.withResults r0 r1 r2).out = s.out := rfl
@[simp] theorem State.withResults_inMem (r0 r1 r2 : Word) : (s.withResults r0 r1 r2).inMem = s.inMem := rfl
@[simp] theorem State.withResults_inEpoch (r0 r1 r2 : Word) : (s.withResults r0 r1 r2).inEpoch = s.inEpoch := rfl
@[simp] theorem State.withResults_hostQueue (r0 r1 r2 : Word) : (s.withResults r0 r1 r2).hostQueue = s.hostQueue := rfl
@[simp] theorem State.withResults_hostData (r0 r1 r2 : Word) : (s.withResults r0 r1 r2).hostData = s.hostData := rfl
@[simp] theorem State.withResults_busyReads (r0 r1 r2 : Word) : (s.withResults r0 r1 r2).busyReads = s.busyReads := rfl

/-! ### startCommand -/

@[simp] theorem State.startCommand_cfg (w : Word) : (s.startCommand w).cfg = s.cfg := rfl
@[simp] theorem State.startCommand_sess (w : Word) : (s.startCommand w).sess = s.sess := rfl
@[simp] theorem State.startCommand_cmd (w : Word) : (s.startCommand w).cmd = w := rfl
@[simp] theorem State.startCommand_arg0 (w : Word) : (s.startCommand w).arg0 = s.arg0 := rfl
@[simp] theorem State.startCommand_arg1 (w : Word) : (s.startCommand w).arg1 = s.arg1 := rfl
@[simp] theorem State.startCommand_arg2 (w : Word) : (s.startCommand w).arg2 = s.arg2 := rfl
@[simp] theorem State.startCommand_inLen (w : Word) : (s.startCommand w).inLen = s.inLen := rfl
@[simp] theorem State.startCommand_code (w : Word) : (s.startCommand w).code = s.code := rfl
@[simp] theorem State.startCommand_busy (w : Word) : (s.startCommand w).busy = true := rfl
@[simp] theorem State.startCommand_res0 (w : Word) : (s.startCommand w).res0 = s.res0 := rfl
@[simp] theorem State.startCommand_res1 (w : Word) : (s.startCommand w).res1 = s.res1 := rfl
@[simp] theorem State.startCommand_res2 (w : Word) : (s.startCommand w).res2 = s.res2 := rfl
@[simp] theorem State.startCommand_out (w : Word) : (s.startCommand w).out = s.out := rfl
@[simp] theorem State.startCommand_inMem (w : Word) : (s.startCommand w).inMem = s.inMem := rfl
@[simp] theorem State.startCommand_inEpoch (w : Word) : (s.startCommand w).inEpoch = s.inEpoch := rfl
@[simp] theorem State.startCommand_hostQueue (w : Word) : (s.startCommand w).hostQueue = .await :: s.hostQueue := rfl
@[simp] theorem State.startCommand_hostData (w : Word) : (s.startCommand w).hostData = s.hostData := rfl
@[simp] theorem State.startCommand_busyReads (w : Word) : (s.startCommand w).busyReads = s.busyReads := rfl

end Sys2Proof.Machine
end

