-- ==== Sys2Proof/Laws/Ops.lean ====
section
/-! SUPPORT. One lemma per shared operation, for the provers to cite. -/

namespace Sys2Proof.Machine

/-! ### The end of a command -/

/-- Everything `raise` does (R203). -/
theorem raise_eq (s : State) (e : StatusCode) :
    s.raise e = .next { s with code := e, out := [], busy := false } := rfl

/-- Everything `finish` does (R13). -/
theorem finish_eq (s : State) (o : List Byte) :
    s.finish o = .next { s with code := .ok, out := o, busy := false } := rfl

@[simp] theorem raise_eq_next_iff (s t : State) (e : StatusCode) : s.raise e = .next t ↔ t = s.retire e [] := by
  simp [State.raise, eq_comm]

@[simp] theorem finish_eq_next_iff (s t : State) (o : List Byte) : s.finish o = .next t ↔ t = s.retire .ok o := by
  simp [State.finish, eq_comm]

/-! ### Memory -/

@[simp] theorem Memory.read_nil (a : Nat) : Memory.read [] a = none := rfl

theorem Memory.read_write_same (m : Memory) (a : Nat) (b : Byte) : (m.write a b).read a = some b := by
  induction m with
  | nil => simp [Memory.write, Memory.read]
  | cons c m ih =>
    obtain ⟨k, v⟩ := c
    simp only [Memory.write]
    split
    · simp [Memory.read]
    · split
      · simp [Memory.read]
      · rw [Memory.read, if_neg (by omega), ih]

theorem Memory.read_write_other (m : Memory) {a a' : Nat} (b : Byte) (h : a' ≠ a) :
    (m.write a b).read a' = m.read a' := by
  induction m with
  | nil => simp [Memory.write, Memory.read, Memory.unlisted, h.symm]
  | cons c m ih =>
    obtain ⟨k, v⟩ := c
    simp only [Memory.write]
    split
    · rw [Memory.read, if_neg (Ne.symm h)]
    · split
      · next hk => subst hk; simp [Memory.read, h.symm]
      · simp only [Memory.read, ih]

theorem Memory.risesFrom_weaken {m : Memory} {lo lo' : Nat} (h : lo' ≤ lo) (hm : m.risesFrom lo = true) :
    m.risesFrom lo' = true := by
  cases m with
  | nil => rfl
  | cons c m =>
    simp only [Memory.risesFrom, Bool.and_eq_true, decide_eq_true_eq] at hm ⊢
    exact ⟨by omega, hm.2⟩

theorem Memory.risesFrom_write {m : Memory} {lo : Nat} (a : Nat) (b : Byte) (ha : lo ≤ a)
    (hm : m.risesFrom lo = true) : (m.write a b).risesFrom lo = true := by
  induction m generalizing lo with
  | nil => simpa [Memory.write, Memory.risesFrom] using ha
  | cons c m ih =>
    obtain ⟨k, v⟩ := c
    simp only [Memory.risesFrom, Bool.and_eq_true, decide_eq_true_eq] at hm
    simp only [Memory.write]
    split
    · simp only [Memory.risesFrom, Bool.and_eq_true, decide_eq_true_eq]
      exact ⟨ha, by omega, hm.2⟩
    · split
      · next h => subst h; simp [Memory.risesFrom, ha, hm.2]
      · simp only [Memory.risesFrom, Bool.and_eq_true, decide_eq_true_eq]
        exact ⟨hm.1, ih (by omega) hm.2⟩

/-- A write keeps the canonical form. -/
theorem Memory.wf_write (m : Memory) (a : Nat) (b : Byte) (h : m.wf = true) : (m.write a b).wf = true :=
  Memory.risesFrom_write a b (Nat.zero_le a) h

theorem Memory.risesFrom_layFrom (a : Nat) (bs : List Byte) : (Memory.layFrom a bs).risesFrom a = true := by
  induction bs generalizing a with
  | nil => rfl
  | cons b bs ih => simp [Memory.layFrom, Memory.risesFrom, ih]

/-- A byte sequence laid out has the canonical form. -/
theorem Memory.wf_ofBytes (bs : List Byte) : (Memory.ofBytes bs).wf = true :=
  Memory.risesFrom_layFrom 0 bs

/-- The memory after reset has the canonical form. -/
theorem Memory.wf_reset (c : Config) : (State.resetWith c).inMem.wf = true := rfl

theorem Memory.read_layFrom (a : Nat) (bs : List Byte) (i : Nat) (b : Byte) (h : bs[i]? = some b) :
    (Memory.layFrom a bs).read (a + i) = some b := by
  induction bs generalizing a i with
  | nil => simp at h
  | cons c bs ih =>
    cases i with
    | zero => simpa [Memory.layFrom, Memory.read] using h
    | succ i =>
      have : a ≠ a + (i + 1) := by omega
      simp only [Memory.layFrom, Memory.read, if_neg this]
      have := ih (a + 1) i (by simpa using h)
      rwa [Nat.add_assoc, Nat.add_comm 1 i] at this

/-- A byte sequence laid out reads back. -/
theorem Memory.read_ofBytes (bs : List Byte) (i : Nat) (b : Byte) (h : bs[i]? = some b) :
    (Memory.ofBytes bs).read i = some b := by
  simpa [Memory.ofBytes] using Memory.read_layFrom 0 bs i b h

theorem Memory.extent_layFrom (a : Nat) (b : Byte) (bs : List Byte) :
    (Memory.layFrom a (b :: bs)).extent = a + (b :: bs).length := by
  induction bs generalizing a b with
  | nil => rfl
  | cons c bs ih =>
    have := ih (a + 1) c
    simp only [Memory.layFrom, Memory.extent, List.length_cons] at this ⊢
    omega

/-- The extent of a byte sequence laid out is its length. -/
@[simp] theorem Memory.extent_ofBytes (bs : List Byte) : (Memory.ofBytes bs).extent = bs.length := by
  cases bs with
  | nil => rfl
  | cons b bs => simpa [Memory.ofBytes] using Memory.extent_layFrom 0 b bs

/-! ### Reads of IN -/

@[simp] theorem readIn_length (s : State) (a n : Nat) : (s.readIn a n).length = n := by simp [State.readIn]

theorem readIn_getElem? (s : State) (a n i : Nat) (h : i < n) : (s.readIn a n)[i]? = some (s.inByte (a + i)) := by
  simp [State.readIn, h]

theorem inByte_of_read (s : State) (a : Nat) (b : Byte) (h : s.inMem.read a = some b) : s.inByte a = b := by
  simp [State.inByte, h]

/-! ### Bytes -/

@[simp] theorem le16_length (x : Half) : (le16 x).length = 2 := rfl
@[simp] theorem le32_length (x : Word) : (le32 x).length = 4 := rfl
@[simp] theorem headerEncode_length (r : Word) (c : Half) (n : Word) : (headerEncode r c n).length = 14 := rfl

/-- The bytes of a word, read back (R11, R50). -/
theorem rdLe32_le32 (w : Word) : rdLe32 [wordByte w 0, wordByte w 1, wordByte w 2, wordByte w 3] 0 = w := by
  apply BitVec.eq_of_toNat_eq
  have := w.isLt
  simp only [rdLe32, byteOf, wordByte, List.getD_cons_zero, List.getD_cons_succ, BitVec.toNat_ofNat,
    BitVec.extractLsb'_toNat, Nat.shiftRight_eq_div_pow]
  omega

end Sys2Proof.Machine
end

