-- ==== Sys2Proof/Laws/Codec.lean ====
section
/-! SUPPORT. Lengths and positions: growth, the session's buffers, the encoder's and the decoder's outputs. -/

namespace Sys2Proof.Machine

/-! ### Growth and buffers -/

/-- A property of one of the first `n` of sixteen things, by channel number. -/
theorem exists_mem_take_iff {α : Type} (v : Vector α 16) (n : Nat) (P : α → Prop) :
    (∃ b ∈ v.toList.take n, P b) ↔ ∃ c : Fin 16, c.val < n ∧ P v[c] := by
  constructor
  · rintro ⟨b, hb, hp⟩
    obtain ⟨i, hi, rfl⟩ := List.mem_iff_getElem.1 hb
    simp only [List.length_take, Vector.length_toList, lt_inf_iff] at hi
    exact ⟨⟨i, hi.2⟩, hi.1, by simpa using hp⟩
  · rintro ⟨c, hc, hp⟩
    refine ⟨v[c], List.mem_iff_getElem.2 ⟨c.val, ?_, ?_⟩, hp⟩
    · simp only [List.length_take, Vector.length_toList, lt_inf_iff]
      omega
    · simp

/-- When growth fails (R132, R136). -/
theorem growthFails_iff (x : Session) (maxCap k : Nat) :
    x.growthFails maxCap k = true ↔
      ∃ c : Fin 16, c.val < x.channelCount.toNat ∧ maxCap < grow x.buffers[c].capacity (x.buffers[c].used + k) := by
  rw [← exists_mem_take_iff x.buffers x.channelCount.toNat (fun b => maxCap < grow b.capacity (b.used + k))]
  simp [Session.growthFails]

theorem le_growLoop (n cap need : Nat) : cap ≤ growLoop n cap need := by
  induction n generalizing cap with
  | zero => exact Nat.le_refl cap
  | succ n ih =>
    simp only [growLoop]
    split
    · exact Nat.le_refl cap
    · have := ih (growthFactor * cap)
      simp only [growthFactor] at this ⊢
      omega

/-- Growth never lowers a capacity (R135). -/
theorem le_grow (cap need : Nat) : cap ≤ grow cap need := le_growLoop _ cap need

/-- What the bounded doubling gives when its bound is enough. -/
theorem growLoop_spec (n cap need : Nat) (h : need ≤ cap * 2 ^ n) :
    ∃ m, growLoop n cap need = cap * 2 ^ m ∧ need ≤ cap * 2 ^ m ∧ ∀ j, j < m → cap * 2 ^ j < need := by
  induction n generalizing cap with
  | zero => exact ⟨0, by simp [growLoop], by simpa using h, by simp⟩
  | succ n ih =>
    simp only [growLoop]
    split
    · next hle => exact ⟨0, by simp, by simpa using hle, by simp⟩
    · next hlt =>
      obtain ⟨m, h1, h2, h3⟩ := ih (2 * cap) (by rw [pow_succ] at h; linarith)
      refine ⟨m + 1, by rw [h1, pow_succ]; ring, by rw [pow_succ]; linarith, fun j hj => ?_⟩
      cases j with
      | zero => simpa using hlt
      | succ j =>
        have := h3 j (by omega)
        rw [pow_succ]
        linarith

/-- A buffer of the session after a frame (R132, R134). -/
theorem appendFrame_buffer (x : Session) (frame : Nat → List Byte) (k : Nat) (c : Fin 16) :
    (x.appendFrame frame k).buffers[c] =
      if c.val < x.channelCount.toNat then x.buffers[c].append (frame c.val) k else x.buffers[c] := by
  simp [Session.appendFrame]

/-! ### The encoder -/

@[simp] theorem encodeDeltas_length (prev : Byte) (rest : List Byte) (k : Catchup) :
    (encodeDeltas prev rest k).1.length = rest.length := by
  induction rest generalizing prev k with
  | nil => rfl
  | cons c r ih => simp [encodeDeltas, ih]

@[simp] theorem deltaEncodeChannel_length (samples : List Byte) (k : Catchup) :
    (deltaEncodeChannel samples k).1.length = samples.length := by
  cases samples <;> simp [deltaEncodeChannel]

/-- The encoder's iterations, split in two: the second part starts from the state the first leaves (R161). -/
theorem encodeDeltas_append (prev mid : Byte) (xs ys : List Byte) (k : Catchup) :
    encodeDeltas prev (xs ++ mid :: ys) k =
      ((encodeDeltas prev (xs ++ [mid]) k).1 ++ (encodeDeltas mid ys (encodeDeltas prev (xs ++ [mid]) k).2).1,
        (encodeDeltas mid ys (encodeDeltas prev (xs ++ [mid]) k).2).2) := by
  induction xs generalizing prev k with
  | nil => simp [encodeDeltas]
  | cons x xs ih => simp [encodeDeltas, ih]

theorem deltaEncodeFrom_length (scope : CatchupScope) (chs : List (List Byte)) (k : Catchup) :
    (deltaEncodeFrom scope chs k).length = (chs.map List.length).sum := by
  induction chs generalizing k with
  | nil => rfl
  | cons ch chs ih => simp [deltaEncodeFrom, ih]

/-! ### The decoder -/

@[simp] theorem decodeDeltas_length (prev : Byte) (bs : List Byte) : (decodeDeltas prev bs).length = bs.length := by
  induction bs generalizing prev with
  | nil => rfl
  | cons b bs ih => simp [decodeDeltas, ih]

/-- Each decoded sample is the one before it plus its byte (R180). -/
theorem decodeDeltas_getElem? (p : Byte) (bs : List Byte) (i : Nat) (prev b : Byte)
    (h1 : (p :: decodeDeltas p bs)[i]? = some prev) (h2 : bs[i]? = some b) :
    (decodeDeltas p bs)[i]? = some (prev + b) := by
  induction bs generalizing p i with
  | nil => simp at h2
  | cons a bs ih =>
    cases i with
    | zero =>
      simp only [List.getElem?_cons_zero, Option.some.injEq] at h1 h2
      subst h1 h2
      simp [decodeDeltas]
    | succ i =>
      simp only [decodeDeltas, List.getElem?_cons_succ] at h1 h2 ⊢
      exact ih _ i h1 h2

/-! ### Blocks of one size, one after another -/

theorem flatMap_range_length {α : Type} (n m : Nat) (f : Nat → List α) (h : ∀ c, c < n → (f c).length = m) :
    ((List.range n).flatMap f).length = n * m := by
  induction n with
  | zero => simp
  | succ n ih =>
    simp only [List.range_succ, List.flatMap_append, List.flatMap_singleton, List.length_append,
      ih (fun c hc => h c (by omega)), h n (by omega)]
    ring

/-- Element `i` of block `c`. -/
theorem flatMap_range_getElem? {α : Type} (n m : Nat) (f : Nat → List α) (h : ∀ c, c < n → (f c).length = m) (c i : Nat)
    (hc : c < n) (hi : i < m) : ((List.range n).flatMap f)[c * m + i]? = (f c)[i]? := by
  induction n with
  | zero => omega
  | succ n ih =>
    have hl := flatMap_range_length n m f fun c hc => h c (by omega)
    simp only [List.range_succ, List.flatMap_append, List.flatMap_singleton]
    by_cases hcn : c < n
    · rw [List.getElem?_append_left, ih (fun c hc => h c (by omega)) hcn]
      rw [hl]
      nlinarith
    · obtain rfl : c = n := by omega
      rw [List.getElem?_append_right (by rw [hl]; omega), hl]
      congr 1
      omega

end Sys2Proof.Machine
end

