-- ==== Sys2Proof/Laws/Header.lean ====
section
/-! SUPPORT. What the header in IN is: the spec lemmas of `State.inHeader` and `State.inRecognised`, byte by byte. -/

namespace Sys2Proof.Machine

/-- Appending bit vectors is positional. -/
theorem toNat_append_add {n m : Nat} (x : BitVec n) (y : BitVec m) :
    (x ++ y).toNat = x.toNat * 2 ^ m + y.toNat := by
  rw [BitVec.toNat_append, ← Nat.shiftLeft_add_eq_or_of_lt y.isLt, Nat.shiftLeft_eq]

/-- `rd_le32` of R11 as an append, highest byte first. -/
theorem rdLe32_eq_append (bs : List Byte) (o : Nat) :
    rdLe32 bs o = (byteOf bs (o + 3) ++ byteOf bs (o + 2) ++ byteOf bs (o + 1) ++ byteOf bs o : BitVec 32) := by
  have h0 := (byteOf bs o).isLt
  have h1 := (byteOf bs (o + 1)).isLt
  have h2 := (byteOf bs (o + 2)).isLt
  have h3 := (byteOf bs (o + 3)).isLt
  apply BitVec.eq_of_toNat_eq
  simp only [rdLe32, toNat_append_add, BitVec.toNat_ofNat]
  omega

/-- `rd_le16` of R11 as an append, high byte first. -/
theorem rdLe16_eq_append (bs : List Byte) (o : Nat) :
    rdLe16 bs o = (byteOf bs (o + 1) ++ byteOf bs o : BitVec 16) := by
  have h0 := (byteOf bs o).isLt
  have h1 := (byteOf bs (o + 1)).isLt
  apply BitVec.eq_of_toNat_eq
  simp only [rdLe16, toNat_append_add, BitVec.toNat_ofNat]
  omega

theorem byteOf_readIn (s : State) {n i : Nat} (h : i < n) : byteOf (s.readIn 0 n) i = s.inByte i := by
  simp [byteOf, readIn_getElem? s 0 n i h]

/-- The first four bytes of any longer read of IN. -/
theorem readIn_take_four (s : State) {n : Nat} (h : 4 ≤ n) :
    (s.readIn 0 n).take 4 = [s.inByte 0, s.inByte 1, s.inByte 2, s.inByte 3] := by
  obtain ⟨m, rfl⟩ := Nat.exists_eq_add_of_le' h
  simp [State.readIn, List.range_succ_eq_map]

theorem first_four_eq_magic (s : State) :
    [s.inByte 0, s.inByte 1, s.inByte 2, s.inByte 3] = magic ↔ s.inStartsWithMagic := by
  simp [State.inStartsWithMagic, magic]

/-- A header in IN has these fields (R113). -/
theorem inHeader_of_holds (s : State) (h : s.inHoldsHeader) :
    s.inHeader = some { rate := s.inRate, channels := s.inChannels, count := s.inCount } := by
  have hm := (first_four_eq_magic s).2 h.2
  have hl : ¬ s.inLen.toNat < 14 := Nat.not_lt.2 h.1
  simp [State.inHeader, headerDecode, headerSize, readIn_take_four, hm, hl, rdLe32_eq_append, rdLe16_eq_append, byteOf_readIn,
    State.inRate, State.inChannels, State.inCount]

/-- Without a header in IN there are no fields (R113). -/
theorem inHeader_of_not_holds (s : State) (h : ¬ s.inHoldsHeader) : s.inHeader = none := by
  by_cases hl : s.inLen.toNat < 14
  · simp [State.inHeader, hl]
  · have hm : ¬ [s.inByte 0, s.inByte 1, s.inByte 2, s.inByte 3] = magic := fun he =>
      h ⟨Nat.not_lt.1 hl, (first_four_eq_magic s).1 he⟩
    simp [State.inHeader, headerDecode, headerSize, readIn_take_four, hm]

/-- The recognition rule of R116, byte by byte. -/
theorem inRecognised_iff (s : State) : s.inRecognised = true ↔ 4 ≤ s.inLen.toNat ∧ s.inStartsWithMagic := by
  have h := readIn_take_four s (Nat.le_refl 4)
  rw [List.take_of_length_le (by simp)] at h
  simp [State.inRecognised, h, first_four_eq_magic]

end Sys2Proof.Machine
end

