-- ==== Sys2Proof/Laws/HostPort.lean ====
section
/-! SUPPORT. What a host action can do: the spec lemmas of the register window and of the host's turn. -/

namespace Sys2Proof.Machine

theorem accessWellFormed_iff (width offset : Nat) : accessWellFormed width offset = true ↔ width = 32 ∧ offset % 4 = 0 := by
  simp [accessWellFormed]

/-- An aligned offset holds no register exactly from 0x40 on (R60). -/
theorem ofOffset_eq_none_iff {offset : Nat} (h : offset % 4 = 0) : Reg.ofOffset offset = none ↔ 0x40 ≤ offset := by
  by_cases ho : offset < 0x40
  · have aligned : ∀ o : Fin 0x40, o.val % 4 = 0 → Reg.ofOffset o.val ≠ none := by decide
    have := aligned ⟨offset, ho⟩ h
    simp only [this, false_iff]
    omega
  · simp only [Nat.not_lt.1 ho, iff_true]
    unfold Reg.ofOffset
    split <;> first | rfl | omega

theorem offset_lt_of_ofOffset {offset : Nat} {r : Reg} (h : Reg.ofOffset offset = some r) : offset < 0x40 := by
  by_contra hn
  unfold Reg.ofOffset at h
  split at h <;> first | omega | simp at h

/-- A write is forbidden while BUSY = 1 exactly at the offsets of CMD, ARG0 to ARG2 and IN_LEN (R241). -/
theorem busyViolation_ne_none_iff {offset : Nat} {r : Reg} (h : Reg.ofOffset offset = some r) :
    r.busyViolation ≠ none ↔ offset ∈ [0x00, 0x04, 0x08, 0x0C, 0x10] := by
  have table : ∀ o : Fin 0x40, ∀ r, Reg.ofOffset o.val = some r →
      (r.busyViolation ≠ none ↔ o.val ∈ [0x00, 0x04, 0x08, 0x0C, 0x10]) := by
    intro o
    fin_cases o <;> simp [Reg.ofOffset, Reg.busyViolation]
  exact table ⟨offset, offset_lt_of_ofOffset h⟩ r h

/-- Everything a register write can do. -/
theorem hostWrite_cases (s : State) (width offset : Nat) (v : Word) :
    (¬ (width = 32 ∧ offset % 4 = 0) ∧ hostWrite s width offset v = .fault (.hostProtocol .badAccess)) ∨
    (width = 32 ∧ offset % 4 = 0 ∧ 0x40 ≤ offset ∧ hostWrite s width offset v = .refused (.offBlockAccess offset)) ∨
    ∃ r, width = 32 ∧ offset % 4 = 0 ∧ Reg.ofOffset offset = some r ∧
      ((s.busy = true ∧ ∃ w, r.busyViolation = some w ∧ hostWrite s width offset v = .fault (.hostProtocol w)) ∨
        (¬ (s.busy = true ∧ r.busyViolation ≠ none) ∧ hostWrite s width offset v = .next (s.writeReg r v))) := by
  by_cases h : width = 32 ∧ offset % 4 = 0
  · have ha := (accessWellFormed_iff width offset).2 h
    simp only [hostWrite, ha, Bool.true_eq_false, if_false]
    cases hr : Reg.ofOffset offset with
    | none => exact .inr (.inl ⟨h.1, h.2, (ofOffset_eq_none_iff h.2).1 hr, rfl⟩)
    | some r =>
      refine .inr (.inr ⟨r, h.1, h.2, rfl, ?_⟩)
      cases s.busy <;> cases hv : r.busyViolation <;> simp [hv]
  · have ha : accessWellFormed width offset = false :=
      Bool.eq_false_iff.2 fun h' => h ((accessWellFormed_iff width offset).1 h')
    exact .inl ⟨h, by simp [hostWrite, ha]⟩

/-- Everything a register read can do. -/
theorem hostRead_cases (s : State) (width offset : Nat) :
    (¬ (width = 32 ∧ offset % 4 = 0) ∧ hostRead s width offset = .fault (.hostProtocol .badAccess)) ∨
    (width = 32 ∧ offset % 4 = 0 ∧ 0x40 ≤ offset ∧ hostRead s width offset = .refused (.offBlockAccess offset)) ∨
    ∃ r, width = 32 ∧ offset % 4 = 0 ∧ Reg.ofOffset offset = some r ∧
      hostRead s width offset = .next (if s.busy
        then { s with hostData := s.busyRead, busyReads := s.busyReads + 1 }
        else { s with hostData := s.readReg r }) := by
  by_cases h : width = 32 ∧ offset % 4 = 0
  · have ha := (accessWellFormed_iff width offset).2 h
    simp only [hostRead, ha, Bool.true_eq_false, if_false]
    cases hr : Reg.ofOffset offset with
    | none => exact .inr (.inl ⟨h.1, h.2, (ofOffset_eq_none_iff h.2).1 hr, rfl⟩)
    | some r =>
      refine .inr (.inr ⟨r, h.1, h.2, rfl, ?_⟩)
      cases s.busy <;> rfl
  · have ha : accessWellFormed width offset = false :=
      Bool.eq_false_iff.2 fun h' => h ((accessWellFormed_iff width offset).1 h')
    exact .inl ⟨h, by simp [hostRead, ha]⟩

/-- A host write to a register touches no session, parameter, or byte of IN. -/
theorem writeReg_keeps (s : State) (r : Reg) (v : Word) :
    (s.writeReg r v).sess = s.sess ∧ (s.writeReg r v).cfg = s.cfg ∧ (s.writeReg r v).inMem = s.inMem := by
  cases r <;> exact ⟨rfl, rfl, rfl⟩

/-- The step is the host's first action, unless that is a wait. -/
theorem step_of_host_action (s : State) (a : HostAction) (rest : List HostAction) (h : s.hostQueue = a :: rest)
    (ha : a ≠ .await) : step s = hostAct { s with hostQueue := rest } a := by
  have turn : s.blockTurn = false := by
    simp only [State.blockTurn, h]
    cases a <;> simp_all
  simp [step, turn, hostTurn, h]

/-- The step is the block's when it has its turn. -/
theorem step_of_blockTurn (s : State) (h : s.blockTurn = true) : step s = blockStep s := by
  simp [step, h]

end Sys2Proof.Machine
end

