-- ==== Sys2Proof/Laws/PerInstr.lean ====
section
/-! SUPPORT. Statements about every instruction as syntax, one lemma per constructor. -/

namespace Sys2Proof.Laws.Encoding

/-- The instruction is well formed, its word is a legal command word (R84), and the row of the opcode table at that
word decodes to it (R86). -/
abbrev Statement (i : Instr) : Prop :=
  i.wellFormed = true ∧ commandWordLegal (encode i) = true ∧ decodeTableWord 32 (encode i).toNat = some i

theorem hdrEnc : Statement .hdrEnc := by decide
theorem hdrDec : Statement .hdrDec := by decide
theorem probe : Statement .probe := by decide
theorem openSession : Statement .openSession := by decide
theorem ingest : Statement .ingest := by decide
theorem endStream : Statement .endStream := by decide
theorem finalize : Statement .finalize := by decide
theorem closeSession : Statement .closeSession := by decide
theorem decodePacket : Statement .decodePacket := by decide

end Sys2Proof.Laws.Encoding
end

