-- ==== Sys2Proof/Machine/HostSyntax.lean ====
section
/-! DEFINITION. The host command syntax and the pseudo-commands (spec/30_encoding.md R91, R92), as the host actions
they stand for. Notation only: the block sees the expansion. -/

namespace Sys2Proof.Machine

/-- A line of host syntax (R91) or a pseudo-command (R92). -/
inductive HostLine where
  | hdrEnc (rate channels count : Word)
  | hdrDec (bytes : List Byte)
  | probe (bytes : List Byte)
  | openSession (rate channels : Word)
  | ingest (k : Word) (bytes : List Byte)
  | endStream
  | finalize
  | closeSession
  | decodePacket (bytes : List Byte)
  /-- `.word W` -/
  | word (w : Word)
  /-- `IN <- OUT` -/
  | inFromOut
  /-- `HDR_DEC IN`, `PROBE IN` or `DECODE IN`: the bytes are those IN already holds (R92, ROUNDTRIP). -/
  | onIn (i : Instr)
  /-- `FLUSH` -/
  | flush
  /-- `RESTART rate, channels` -/
  | restart (rate channels : Word)
  /-- `ENCODE rate, channels, (k1, F1), ..., (km, Fm)` -/
  | encodeAll (rate channels : Word) (frames : List (Word × List Byte))
  /-- `ROUNDTRIP` -/
  | roundTrip
deriving DecidableEq, Repr

/-- `R <- v` for the register at an offset (R60). -/
def setReg (offset : Nat) (v : Word) : HostAction := .write 32 offset v

/-- `CMD <- W`, then the wait every line makes before the next starts (R91). -/
def issueWord (w : Word) : List HostAction := [setReg 0x00 w, .await]

/-- `IN <- bytes; IN_LEN <- len(bytes)` (R91). -/
def supplyBytes (bytes : List Byte) : List HostAction := [.loadIn bytes, .sizeIn]

/-- `OPEN rate, channels` (R91). -/
def openLine (rate channels : Word) : List HostAction :=
  [setReg 0x04 rate, setReg 0x08 channels] ++ issueWord (encode .openSession)

/-- `INGEST k, <bytes>` (R91). -/
def ingestLine (k : Word) (bytes : List Byte) : List HostAction :=
  setReg 0x04 k :: supplyBytes bytes ++ issueWord (encode .ingest)

/-- The host actions a line stands for (R91, R92). -/
def HostLine.expand : HostLine → List HostAction
  | .hdrEnc rate channels count =>
    [setReg 0x04 rate, setReg 0x08 channels, setReg 0x0C count] ++ issueWord (encode .hdrEnc)
  | .hdrDec bytes => supplyBytes bytes ++ issueWord (encode .hdrDec)
  | .probe bytes => supplyBytes bytes ++ issueWord (encode .probe)
  | .openSession rate channels => openLine rate channels
  | .ingest k bytes => ingestLine k bytes
  | .endStream => issueWord (encode .endStream)
  | .finalize => issueWord (encode .finalize)
  | .closeSession => issueWord (encode .closeSession)
  | .decodePacket bytes => supplyBytes bytes ++ issueWord (encode .decodePacket)
  | .word w => issueWord w
  | .inFromOut => [.copyOutToIn]
  | .onIn i => .sizeIn :: issueWord (encode i)
  | .flush => issueWord (encode .endStream) ++ issueWord (encode .finalize)
  | .restart rate channels => issueWord (encode .closeSession) ++ openLine rate channels
  | .encodeAll rate channels frames =>
    openLine rate channels ++ frames.flatMap (fun f => ingestLine f.1 f.2)
      ++ issueWord (encode .endStream) ++ issueWord (encode .finalize)
  | .roundTrip => .copyOutToIn :: .sizeIn :: issueWord (encode .decodePacket)

/-- A host program: its lines' actions in order (R91: each line waits before the next). -/
def hostProgram (lines : List HostLine) : List HostAction := lines.flatMap HostLine.expand

end Sys2Proof.Machine
end

