-- ==== Sys2Proof/Tests/Slice0.lean ====
section
/-! SUPPORT. Tests on single steps, with expected values from spec/95_test_vectors.md (each docstring names the vector), and a
witness for the hypotheses of every statement. -/

namespace Sys2Proof.Tests

open Sys2Proof Sys2Proof.Machine

/-! ### Small states -/

/-- The state of `s` with `bytes` supplied as IN. -/
def withIn (s : State) (bytes : List Byte) : State :=
  { s with inMem := Memory.ofBytes bytes, inLen := BitVec.ofNat 32 bytes.length }

/-- The state of `s` with the operand registers set. -/
def withArgs (s : State) (a0 a1 a2 : Word) : State := { s with arg0 := a0, arg1 := a1, arg2 := a2 }

/-- The vectors' "RES preset [7,7,7]". -/
def sevens : State := { State.reset with res0 := 7#32, res1 := 7#32, res2 := 7#32 }

/-- A session of `cc` channels as R131 leaves it. -/
def openWith (rate : Word) (cc : Half) : State := State.reset.withSession (Session.create rate cc)

/-- A session of two channels, [10, 15, 9] and [0, 100, 200], in a given state. -/
def twoChannels (st : SessState) : State :=
  State.reset.withSession {
    state := st
    sampleRate := 44100#32
    channelCount := 2#16
    sampleCount := 3#32
    buffers := (Vector.replicate 16 ChannelBuffer.empty).set 0
      { data := [10#8, 15#8, 9#8], used := 3, capacity := 8000 } |>.set 1
      { data := [0#8, 100#8, 200#8], used := 3, capacity := 8000 } }

/-- `s` with the host about to do `actions`. -/
def queued (s : State) (actions : List HostAction) : State := { s with hostQueue := actions }

/-- `s` with a command word in CMD and the block's turn. -/
def started (s : State) (w : Word) : State := s.startCommand w

/-- What a next state shows; `none` for a fault or a refusal. -/
def shows {α : Type} (o : Host.Outcome State Fault Refusal) (view : State → α) : Option α :=
  match o with
  | .next t => some (view t)
  | .fault _ => none
  | .refused _ => none

/-- STATUS and OUT after a command. -/
def statusAndOut (i : Instr) (s : State) : Option (Word × List Byte) :=
  shows (exec i s) fun t => (t.readReg .status, t.out)

/-- STATUS and SESS after a command, SESS as (rate, channels, count, cap). -/
def statusAndSess (i : Instr) (s : State) : Option (Word × Word × Word × Word × Word) :=
  shows (exec i s) fun t =>
    (t.readReg .status, t.readReg .sessRate, t.readReg .sessChannels, t.readReg .sessCount, t.readReg .sessCap)

/-- STATUS, RES and OUT after a command. -/
def statusResOut (i : Instr) (s : State) : Option (Word × List Word × List Byte) :=
  shows (exec i s) fun t => (t.readReg .status, [t.res0, t.res1, t.res2], t.out)

/-! ### Well-formedness -/

theorem test_wf_rejects_reserved_bits : commandWordLegal 0x00000101#32 = false := by decide
theorem test_wf_rejects_unassigned_opcode : commandWordLegal 0x00000015#32 = false := by decide
theorem test_wf_accepts_a_command : commandWordLegal 0x00000020#32 = true := by decide
theorem test_wf_rejects_small_max_cap : Config.legal { Config.default with maxCap := 7999 } = false := by decide
theorem test_wf_rejects_large_max_cap : Config.legal { Config.default with maxCap := 2 ^ 32 } = false := by decide
theorem test_wf_rejects_zero_confidence : Config.legal { Config.default with confMax := 0#32 } = false := by decide
theorem test_wf_accepts_the_limits :
    Config.legal { Config.default with maxCap := 8000, confMax := 1#32 } = true := by decide
theorem test_wf_rejects_narrow_access : accessWellFormed 16 0x04 = false := by decide
theorem test_wf_rejects_misaligned_access : accessWellFormed 32 0x02 = false := by decide
theorem test_wf_rejects_unordered_memory : Memory.wf [(3, 1#8), (2, 1#8)] = false := by decide
theorem test_wf_rejects_repeated_address : Memory.wf [(2, 1#8), (2, 1#8)] = false := by decide
theorem test_wf_all_instructions : ∀ i ∈ Instr.all, i.wellFormed = true := by decide

/-! ### Decoding: words written out from R80 and R82, RSV then OPC -/

theorem test_decode_header_family :
    decode 0b000000000000000000000000_00000010#32 = .ok .hdrDec := by decide
theorem test_decode_session_family :
    decode 0b000000000000000000000000_00010011#32 = .ok .finalize := by decide
theorem test_decode_decoder_family :
    decode 0b000000000000000000000000_00100000#32 = .ok .decodePacket := by decide
/-- X4. -/
theorem test_decode_neighbours :
    decode 0x00000004#32 = .error (.unassignedOpcode 0x04#8) ∧
    decode 0x00000015#32 = .error (.unassignedOpcode 0x15#8) ∧
    decode 0x00000021#32 = .error (.unassignedOpcode 0x21#8) := by decide
theorem test_decode_bytes_in_register_order : decodeBytes [0x11#8, 0#8, 0#8, 0#8] = .ok (.ingest, []) := by decide
theorem test_decode_bytes_short : decodeBytes [0x11#8, 0#8, 0#8] = .error (.shortWord 3) := by decide
theorem test_table_word : decodeTableWord 32 0x14 = some .closeSession := by decide
/-- X5: STATUS shows INVALID_COMMAND and no session is created. -/
theorem test_step_illegal_word :
    shows (step (started State.reset 0x80000010#32)) (fun t => (t.readReg .status, t.sess.state)) =
      some (0x00000012#32, .idle) := by decide
theorem test_step_after_placing_a_word :
    ∀ i ∈ Instr.all, step (State.reset.withFetchWord 32 (encode i).toNat) =
      exec i (State.reset.withFetchWord 32 (encode i).toNat) := by
  intro i _
  cases i <;> rfl

/-! ### HDR_ENC, HDR_DEC, PROBE -/

/-- HC1. -/
theorem test_hdr_enc : statusAndOut .hdrEnc (withArgs State.reset 44100#32 2#32 5#32) =
    some (0#32, [0x61, 0x73, 0x69, 0x66, 0x44, 0xAC, 0x00, 0x00, 0x02, 0x00, 0x05, 0x00, 0x00, 0x00]) := by decide
/-- HC4. -/
theorem test_hdr_enc_high_bits : statusAndOut .hdrEnc (withArgs State.reset 0#32 0x00010002#32 0#32) =
    some (0x00000011#32, []) := by decide
/-- HC5: no bound check. -/
theorem test_hdr_dec : statusResOut .hdrDec
    (withIn sevens [0x61, 0x73, 0x69, 0x66, 0x01, 0x00, 0x00, 0x00, 0x11, 0x00, 0x05, 0x00, 0x00, 0x00]) =
    some (0#32, [1#32, 17#32, 5#32], []) := by decide
/-- HC6: thirteen bytes. -/
theorem test_hdr_dec_short : statusResOut .hdrDec
    (withIn sevens [0x61, 0x73, 0x69, 0x66, 0x01, 0x00, 0x00, 0x00, 0x11, 0x00, 0x05, 0x00, 0x00]) =
    some (0x00000001#32, [7#32, 7#32, 7#32], []) := by decide
/-- HC10. -/
theorem test_probe : statusResOut .probe (withIn sevens [0x61, 0x73, 0x69, 0x66]) =
    some (0#32, [100#32, 7#32, 7#32], []) := by decide
/-- HC9: too short, and a wrong last byte. -/
theorem test_probe_no_match :
    statusResOut .probe (withIn sevens [0x61, 0x73, 0x69]) = some (0#32, [0#32, 7#32, 7#32], []) ∧
    statusResOut .probe (withIn sevens [0x61, 0x73, 0x69, 0x58]) = some (0#32, [0#32, 7#32, 7#32], []) := by decide

/-! ### Session commands -/

/-- FA8. -/
theorem test_open : statusAndSess .openSession (withArgs State.reset 1#32 16#32 0#32) =
    some (0x00000100#32, 1#32, 16#32, 0#32, 8000#32) := by decide
/-- FA5, FA6, FA7. -/
theorem test_open_refuses :
    statusAndOut .openSession (withArgs State.reset 1#32 0#32 0#32) = some (0x00000011#32, []) ∧
    statusAndOut .openSession (withArgs State.reset 1#32 17#32 0#32) = some (0x00000011#32, []) ∧
    statusAndOut .openSession (withArgs State.reset 1#32 0x00010001#32 0#32) = some (0x00000011#32, []) := by decide
/-- R132's example: cc = 2, k = 3. -/
theorem test_ingest : shows (exec .ingest (withIn (withArgs (openWith 1#32 2#16) 3#32 0#32 0#32) [1, 2, 3, 7, 8, 9]))
    (fun t => (t.readReg .status, t.sess.buffers[0].data, t.sess.buffers[1].data, t.readReg .sessCount)) =
    some (0x00000100#32, [1, 2, 3], [7, 8, 9], 3#32) := by decide
/-- FA14, FA1. -/
theorem test_end : statusAndOut .endStream (openWith 1#32 16#16) = some (0x00000200#32, []) ∧
    statusAndOut .endStream State.reset = some (0x00000010#32, []) := by decide
/-- FA15, FA18. -/
theorem test_end_again : statusAndOut .endStream (twoChannels .ended) = some (0x00000200#32, []) ∧
    statusAndOut .endStream (twoChannels .done) = some (0x00000300#32, []) := by decide
/-- FA22: the header alone. -/
theorem test_finalize_empty : statusAndOut .finalize ((openWith 1#32 1#16).withSessState .ended) =
    some (0x00000300#32, [0x61, 0x73, 0x69, 0x66, 0x01, 0, 0, 0, 0x01, 0, 0, 0, 0, 0]) := by decide
/-- FA2, FA13, FA19, and FAILED (P3 step 7). -/
theorem test_finalize_errors : statusAndOut .finalize State.reset = some (0x00000010#32, []) ∧
    statusAndOut .finalize (twoChannels .opened) = some (0x00000105#32, []) ∧
    statusAndOut .finalize (twoChannels .done) = some (0x00000304#32, []) ∧
    statusAndOut .finalize (twoChannels .failed) = some (0x00000403#32, []) := by decide
/-- GW8. -/
theorem test_close : statusAndSess .closeSession (twoChannels .failed) =
    some (0x00000000#32, 0#32, 0#32, 0#32, 0#32) := by decide

/-! ### Growth -/

/-- GW1, GW2. -/
theorem test_grow : grow 8000 8001 = 16000 ∧ grow 8000 8000 = 8000 ∧ grow 8000 0 = 8000 ∧ grow 8000 16000 = 16000 ∧
    grow 8000 16001 = 32000 ∧ grow 16000 16001 = 32000 := by decide
/-- GW4. -/
theorem test_grow_large : grow 8000 4194304000 = 4194304000 ∧ grow 8000 4194304001 = 8388608000 := by decide

/-- A session of one channel with its 8000 bytes used, under MAX_CAP = 8000 (what GW5 and GW7 need, their byte values
aside). -/
def full : State :=
  withIn (withArgs { openWith 1#32 1#16 with
    cfg := { Config.default with maxCap := 8000 }
    sess := { (openWith 1#32 1#16).sess with
      sampleCount := 8000#32
      buffers := (Vector.replicate 16 ChannelBuffer.empty).set 0
        { data := List.replicate 8000 0#8, used := 8000, capacity := 8000 } } } 1#32 0#32 0#32) [0#8]

/-- FA23 (IN_LEN 4 where 3 is needed) and GW7 (one sample more than MAX_CAP allows). -/
theorem test_ingest_errors :
    statusAndSess .ingest (withIn (withArgs (openWith 1#32 3#16) 1#32 0#32 0#32) [0, 0, 0, 0]) =
      some (0x00000111#32, 1#32, 3#32, 0#32, 8000#32) ∧
    statusAndSess .ingest full = some (0x00000403#32, 1#32, 1#32, 8000#32, 8000#32) := by decide

/-! ### Delta encoder -/

/-- EN1 to EN4. -/
theorem test_encode_channel :
    deltaEncodeChannel [10, 15, 9] Catchup.clear = ([0x0A, 0x05, 0xFA], { pending := false, amount := 0 }) ∧
    deltaEncodeChannel [0, 200] Catchup.clear = ([0x00, 0x7F], { pending := true, amount := 73 }) ∧
    deltaEncodeChannel [200, 0] Catchup.clear = ([0xC8, 0x80], { pending := true, amount := -72 }) ∧
    deltaEncodeChannel [0, 255, 0] Catchup.clear = ([0x00, 0x7F, 0x80], { pending := true, amount := -127 }) := by decide
/-- EN7 to EN10, EN15: the edges of the range, and the stale amount. -/
theorem test_encode_channel_edges :
    deltaEncodeChannel [0, 127] Catchup.clear = ([0x00, 0x7F], { pending := false, amount := 0 }) ∧
    deltaEncodeChannel [128, 0] Catchup.clear = ([0x80, 0x80], { pending := false, amount := 0 }) ∧
    deltaEncodeChannel [0, 128] Catchup.clear = ([0x00, 0x7F], { pending := true, amount := 1 }) ∧
    deltaEncodeChannel [129, 0] Catchup.clear = ([0x81, 0x80], { pending := true, amount := -1 }) ∧
    deltaEncodeChannel [0, 200, 210] Catchup.clear = ([0x00, 0x7F, 0x0A], { pending := false, amount := 73 }) := by decide
/-- EN25 (one sample passes the flag through) and EN20's second channel, from the state its first leaves. -/
theorem test_encode_channel_carried :
    deltaEncodeChannel [127] { pending := true, amount := 73 } = ([0x7F], { pending := true, amount := 73 }) ∧
    deltaEncodeChannel [127, 127] { pending := true, amount := 73 } = ([0x7F, 0x49], { pending := false, amount := 73 }) := by
  decide
/-- EN20 to EN22. -/
theorem test_catchup_scope :
    deltaEncodeAll .perChannel [[0, 200], [127, 127]] = [0x00, 0x7F, 0x7F, 0x00] ∧
    deltaEncodeAll .perPacket [[0, 200], [127, 127]] = [0x00, 0x7F, 0x7F, 0x49] ∧
    deltaEncodeAll .perPacket [[0, 255], [127, 127, 200]] = [0x00, 0x7F, 0x7F, 0x7F, 0x4A] ∧
    deltaEncodeAll .perPacket [[0, 255, 0], [127, 127, 200]] = [0x00, 0x7F, 0x80, 0x7F, 0x81, 0x49] := by decide
/-- EN23 to EN25. -/
theorem test_catchup_scope_low_and_short :
    deltaEncodeAll .perPacket [[200, 0], [127, 127]] = [0xC8, 0x80, 0x7F, 0xB8] ∧
    deltaEncodeAll .perPacket [[0, 200], [5, 127, 127]] = [0x00, 0x7F, 0x05, 0x7A, 0x00] ∧
    deltaEncodeAll .perPacket [[0, 200], [127]] = [0x00, 0x7F, 0x7F] := by decide

/-! ### Delta decoder -/

/-- DD1 to DD5. -/
theorem test_delta_decode : deltaDecode [0x0A, 0x05, 0xFA] = [10, 15, 9] ∧ deltaDecode [0xFF, 0x01] = [255, 0] ∧
    deltaDecode [0x00, 0x80] = [0, 128] ∧ deltaDecode [0x01, 0xFF, 0xFF] = [1, 0, 255] ∧
    deltaDecode [0x80, 0x80] = [128, 0] := by decide
/-- DC5: the trailing "zz" is ignored. -/
theorem test_decode : statusResOut .decodePacket (withIn sevens
    [0x61, 0x73, 0x69, 0x66, 0x40, 0x1F, 0, 0, 0x02, 0, 0x04, 0, 0, 0,
      0x01, 0x01, 0x01, 0x01, 0x02, 0xFF, 0xFF, 0xFF, 0x7A, 0x7A]) =
    some (0#32, [8000#32, 2#32, 4#32], [0x01, 0x02, 0x03, 0x04, 0x02, 0x01, 0x00, 0xFF]) := by decide
/-- DC3, DC10: the order of the checks, and the truncation check on integers. -/
theorem test_decode_errors :
    statusResOut .decodePacket (withIn sevens [0x61, 0x73, 0x69, 0x66, 0x01, 0, 0, 0, 0x11, 0, 0x05, 0, 0, 0]) =
      some (0x00000011#32, [7#32, 7#32, 7#32], []) ∧
    statusResOut .decodePacket
        (withIn sevens [0x61, 0x73, 0x69, 0x66, 0x01, 0, 0, 0, 0x10, 0, 0xFF, 0xFF, 0xFF, 0xFF]) =
      some (0x00000002#32, [7#32, 7#32, 7#32], []) := by decide

/-! ### The host's side -/

theorem test_host_write_cmd_while_busy :
    step (queued { State.reset with busy := true } [.write 32 0x00 0x01#32]) =
      .fault (.hostProtocol .cmdWriteWhileBusy) := rfl
theorem test_host_narrow_read : step (queued State.reset [.read 8 0x14]) = .fault (.hostProtocol .badAccess) := rfl
theorem test_host_outside_window : step (queued State.reset [.read 32 0x40]) = .refused (.offBlockAccess 0x40) := rfl
theorem test_host_write_status_ignored :
    step (queued State.reset [.write 32 0x14 0xFFFFFFFF#32]) = .next State.reset := rfl
theorem test_host_read_status :
    shows (step (queued (twoChannels .done) [.read 32 0x14])) State.hostData = some 0x00000300#32 := by decide
/-- R51: byte 1 of STATUS holds its bits 15 to 8, which are STATE. -/
theorem test_register_bytes : (twoChannels .done).regByte .status 1 = 0x03#8 := by decide
/-- R230: reset abandons a command in progress. -/
theorem test_host_reset_while_busy :
    shows (step (queued { twoChannels .ended with busy := true, out := [1#8] } [.reset]))
      (fun t => (t.readReg .status, t.out, t.sess.state)) = some (0#32, [], .idle) := by decide
/-- R91: what `INGEST 1, [0x05]` writes. -/
theorem test_host_line : (HostLine.ingest 1#32 [0x05#8]).expand =
    [.write 32 0x04 1#32, .loadIn [0x05#8], .sizeIn, .write 32 0x00 0x11#32, .await] := by decide
/-- R92: `FLUSH` is END, FINALIZE. -/
theorem test_host_flush : HostLine.flush.expand =
    [.write 32 0x00 0x12#32, .await, .write 32 0x00 0x13#32, .await] := by decide

/-! ### Witnesses: concrete states and operands that meet the hypotheses of each statement -/

/-- A 14-byte header of rate 1, channel count `cc`, sample count 1. -/
def headerBytes (cc : Byte) : List Byte := [0x61, 0x73, 0x69, 0x66, 0x01, 0, 0, 0, cc, 0, 0x01, 0, 0, 0]

/-- The sessions of `twoChannels` are legal in every state but IDLE. -/
theorem twoChannels_inv (st : SessState) (h : st ≠ .idle) : (twoChannels st).Inv where
  cfg := (by decide : Config.default.legal = true)
  inMem := rfl
  sess :=
    { idle := fun h' => absurd h' h
      channels := by cases st <;> decide
      used := by cases st <;> decide
      bounded := by cases st <;> decide
      geometric := fun c hc => ⟨0, by revert c; cases st <;> decide⟩
      equalCaps := by cases st <;> decide
      unused := by cases st <;> decide }

theorem witness_ResetGivesTheStatedValues : State.reset = State.resetWith Config.default := rfl

theorem witness_ResetActionGivesTheResetValues :
    (queued (started (twoChannels .ended) 0x13#32) [.reset, .await]).hostQueue = .reset :: [.await] := rfl

theorem witness_ResetMeetsTheInvariant :
    Config.default.legal = true ∧ Config.legal { Config.default with maxCap := 8000 } = true := by decide

/-- A command's step, in a legal state. -/
theorem witness_EveryStepKeepsTheInvariant :
    (twoChannels .ended).Inv ∧ ∃ t, step (twoChannels .ended) = .next t :=
  ⟨twoChannels_inv .ended (by decide), _, rfl⟩

theorem witness_StepRunsTheDecodedCommand :
    (started State.reset 0x11#32).blockTurn = true ∧ decode (started State.reset 0x11#32).cmd = .ok .ingest ∧
    (queued (started State.reset 0x11#32) []).blockTurn = true := by decide

theorem witness_CmdWriteStartsTheCommand :
    (queued State.reset [.write 32 0x00 0x12#32, .await]).busy = false ∧
    (queued State.reset [.write 32 0x00 0x12#32, .await]).hostQueue = .write 32 0x00 0x12#32 :: .await :: [] ∧
    decode 0x12#32 = .ok .endStream := by decide

theorem witness_IllegalWordReportsInvalidCommand :
    (started State.reset 0x00000100#32).blockTurn = true ∧
    (started State.reset 0x00000100#32).cmd.extractLsb' 8 24 ≠ 0#24 ∧
    (started State.reset 0x00000000#32).blockTurn = true ∧
    (started State.reset 0x00000000#32).cmd.extractLsb' 0 8 ∉
      [0x01#8, 0x02#8, 0x03#8, 0x10#8, 0x11#8, 0x12#8, 0x13#8, 0x14#8, 0x20#8] := by decide

/-- For DecodeAndEncodeAgree. -/
theorem witness_DecodeAndEncodeAgree :
    decode 0x20#32 = .ok .decodePacket ∧ decodeBytes (le32 0x20#32 ++ [5#8]) = .ok (.decodePacket, [5#8]) := by decide

/-- For CommandsLeaveTheHostSideUnchanged, ResultsAreWrittenOnlyBySuccess, CommandsRaiseOnlyTheirCodes,
SessionCommandsFollowTheStateMachine and SampleCountCountsIngestedSamples: every command answers in every session state. -/
theorem witness_commands_answer :
    ∀ i ∈ Instr.all, ∀ st ∈ [SessState.idle, .opened, .ended, .done, .failed],
      (shows (exec i (twoChannels st)) State.busy).isSome = true := by
  intro i _ st _
  cases i <;> cases st <;> rfl

/-- The three clauses of ResultsAreWrittenOnlyBySuccess. -/
theorem witness_ResultsAreWrittenOnlyBySuccess :
    shows (exec .hdrDec State.reset) State.code = some .formatMismatch ∧
    shows (exec .probe State.reset) State.code = some .ok ∧
    shows (exec .closeSession State.reset) State.code = some .ok := by decide

/-- The two cases of ErrorsAbortWithoutEffect. -/
theorem witness_ErrorsAbortWithoutEffect :
    shows (exec .finalize State.reset) State.code = some .stateError ∧
    shows (exec .ingest full) State.code = some .allocationFailure := by decide

/-- The cells of SessionCommandsFollowTheStateMachine that have more than one outcome. -/
theorem witness_SessionCommandsFollowTheStateMachine :
    shows (exec .openSession (withArgs State.reset 0#32 1#32 0#32)) State.code = some .ok ∧
    shows (exec .openSession State.reset) State.code = some .invalidArgument ∧
    shows (exec .ingest (openWith 0#32 1#16)) State.code = some .ok ∧
    shows (exec .ingest (withIn (openWith 0#32 1#16) [1#8])) State.code = some .invalidArgument ∧
    shows (exec .ingest full) State.code = some .allocationFailure := by decide

theorem witness_CodecCommandsIgnoreTheSession :
    Instr.hdrEnc ∈ [Instr.hdrEnc, .hdrDec, .probe, .decodePacket] := by decide

theorem witness_CapacityNeverShrinksInASession :
    (twoChannels .opened).sess.state ≠ .idle ∧ Instr.ingest ≠ .closeSession ∧
    shows (exec .ingest (twoChannels .opened)) State.code = some .ok := by decide

/-- A life of one step: a FINALIZE in DONE. -/
theorem witness_PacketIsProducedOnce :
    ∃ t, SessionLife (started (twoChannels .done) 0x13#32) t ∧ t.code = .exhaustedStream ∧
      (started (twoChannels .done) 0x13#32).sess.state = .done :=
  ⟨_, .step (.here _) (by rintro (⟨_, h⟩ | ⟨h, _⟩) <;> revert h <;> decide) rfl, rfl, rfl⟩

/-- A life of one step: an INGEST in OPEN. -/
theorem witness_SessionKeepsItsHeaderAndSamples :
    ∃ t, SessionLife (started (twoChannels .opened) 0x11#32) t ∧ t.code = .ok ∧
      (started (twoChannels .opened) 0x11#32).sess.state ≠ .idle :=
  ⟨_, .step (.here _) (by rintro (⟨_, h⟩ | ⟨h, _⟩) <;> revert h <;> decide) rfl, rfl, by decide⟩

/-- A life of one step: an END in FAILED. -/
theorem witness_FailureIsTerminal :
    ∃ t, SessionLife (started (twoChannels .failed) 0x12#32) t ∧ t.code = .allocationFailure ∧
      (started (twoChannels .failed) 0x12#32).sess.state = .failed :=
  ⟨_, .step (.here _) (by rintro (⟨_, h⟩ | ⟨h, _⟩) <;> revert h <;> decide) rfl, rfl, rfl⟩

theorem witness_HdrEncWritesTheHeader :
    (withArgs State.reset 0#32 0x00010000#32 0#32).arg1.extractLsb' 16 16 ≠ 0#16 ∧
    (withArgs State.reset 0#32 0x0000FFFF#32 0#32).arg1.extractLsb' 16 16 = 0#16 := by decide

/-- A header, for the statements that need one in IN. -/
theorem headerBytes_held (cc : Byte) : (withIn State.reset (headerBytes cc)).inHoldsHeader :=
  ⟨(by decide : 14 ≤ (14#32).toNat), by
    simp [State.inStartsWithMagic, State.inByte, withIn, headerBytes, Memory.ofBytes, Memory.layFrom, Memory.read]⟩

theorem witness_HdrDecReadsTheHeader :
    (withIn State.reset ((headerBytes 1#8).take 13)).inLen.toNat < 14 ∧
    ¬ (withIn State.reset [0x41, 0x73, 0x69, 0x66]).inStartsWithMagic ∧
    14 ≤ (withIn State.reset (headerBytes 1#8)).inLen.toNat ∧
    (withIn State.reset (headerBytes 1#8)).inStartsWithMagic :=
  ⟨by decide, fun h => absurd h.1 (by decide), (headerBytes_held 1#8).1, (headerBytes_held 1#8).2⟩

theorem magic_starts : (withIn State.reset [0x61, 0x73, 0x69, 0x66]).inStartsWithMagic := by
  simp [State.inStartsWithMagic, State.inByte, withIn, Memory.ofBytes, Memory.layFrom, Memory.read]

theorem witness_ProbeReportsConfidence :
    4 ≤ (withIn State.reset [0x61, 0x73, 0x69, 0x66]).inLen.toNat ∧
    (withIn State.reset [0x61, 0x73, 0x69, 0x66]).inStartsWithMagic ∧
    (withIn State.reset [0x61, 0x73, 0x69]).inLen.toNat < 4 ∧
    ¬ (withIn State.reset [0x41, 0x73, 0x69, 0x66]).inStartsWithMagic :=
  ⟨by decide, magic_starts, by decide, fun h => absurd h.1 (by decide)⟩

/-- The shortest such input; the longest is test_hdr_dec_short's. -/
theorem witness_ShortInputIsRecognisedButNotParsed :
    4 ≤ (withIn State.reset [0x61, 0x73, 0x69, 0x66]).inLen.toNat ∧
    (withIn State.reset [0x61, 0x73, 0x69, 0x66]).inLen.toNat ≤ 13 ∧
    (withIn State.reset [0x61, 0x73, 0x69, 0x66]).inStartsWithMagic :=
  ⟨by decide, by decide, magic_starts⟩

theorem witness_HeaderCodecRoundTrips :
    14 ≤ (headerBytes 17#8).length ∧ (headerBytes 17#8).take 4 = [0x61#8, 0x73#8, 0x69#8, 0x66#8] := by decide

/-- Two inputs that differ at offset 14 only, two that differ at offset 4 only, and two short ones that differ throughout. -/
theorem witness_HeaderCommandsReadOnlyTheirBytes :
    (∀ a, 14 ≤ (withIn State.reset (headerBytes 1#8 ++ [1#8])).inLen.toNat → a < 14 →
      (withIn State.reset (headerBytes 1#8 ++ [2#8])).inByte a = (withIn State.reset (headerBytes 1#8 ++ [1#8])).inByte a) ∧
    (∀ a, 4 ≤ (withIn State.reset (headerBytes 1#8)).inLen.toNat → a < 4 →
      (withIn State.reset ((headerBytes 1#8).set 4 9#8)).inByte a = (withIn State.reset (headerBytes 1#8)).inByte a) ∧
    (∀ a, 4 ≤ (withIn State.reset [0x61, 0x73, 0x69]).inLen.toNat → a < 4 →
      (withIn State.reset [1, 2, 3]).inByte a = (withIn State.reset [0x61, 0x73, 0x69]).inByte a) :=
  ⟨fun a _ => by revert a; decide, fun a _ => by revert a; decide, fun _ h => absurd h (by decide)⟩

theorem witness_OpenCreatesTheSession :
    (twoChannels .failed).sess.state ≠ .idle ∧ State.reset.sess.state = .idle ∧
    (withArgs State.reset 0#32 0x00010001#32 0#32).arg1.extractLsb' 16 16 ≠ 0#16 ∧
    ((withArgs State.reset 0#32 17#32 0#32).arg1.extractLsb' 16 16 = 0#16 ∧
      16 < ((withArgs State.reset 0#32 17#32 0#32).arg1.extractLsb' 0 16).toNat) ∧
    (State.reset.arg1.extractLsb' 0 16).toNat < 1 ∧
    1 ≤ ((withArgs State.reset 0#32 16#32 0#32).arg1.extractLsb' 0 16).toNat ∧
    ((withArgs State.reset 0#32 16#32 0#32).arg1.extractLsb' 0 16).toNat ≤ 16 := by decide

/-- A frame of two samples on each of two channels. -/
theorem witness_IngestAppendsThePlanarFrame :
    let s := withIn (withArgs (twoChannels .opened) 2#32 0#32 0#32) [1#8, 2#8, 3#8, 4#8]
    s.sess.state = .opened ∧ s.inLen.toNat = s.sess.channelCount.toNat * s.arg0.toNat ∧
    ∀ c : Fin 16, c.val < s.sess.channelCount.toNat →
      grow s.sess.buffers[c].capacity (s.sess.buffers[c].used + s.arg0.toNat) ≤ s.cfg.maxCap := by decide

theorem witness_IngestChecksStateThenLength :
    State.reset.sess.state = .idle ∧ (twoChannels .ended).sess.state = .ended ∧ (twoChannels .done).sess.state = .done ∧
    (twoChannels .failed).sess.state = .failed ∧
    ((withIn (twoChannels .opened) [1#8]).sess.state = .opened ∧
      (withIn (twoChannels .opened) [1#8]).inLen.toNat ≠
        (withIn (twoChannels .opened) [1#8]).sess.channelCount.toNat *
          (withIn (twoChannels .opened) [1#8]).arg0.toNat) := by decide

/-- A frame that does not fit under MAX_CAP. -/
theorem witness_GrowthBeyondTheLimitFailsTheSession :
    full.sess.state = .opened ∧ full.sess.channelCount.toNat ≤ 16 ∧
    full.inLen.toNat = full.sess.channelCount.toNat * full.arg0.toNat ∧
    ∃ c : Fin 16, c.val < full.sess.channelCount.toNat ∧
      full.cfg.maxCap < grow full.sess.buffers[c].capacity (full.sess.buffers[c].used + full.arg0.toNat) :=
  ⟨by decide, by decide, by decide, 0, by decide, by decide⟩

theorem witness_FailedSessionAnswersOnlyToClose : (twoChannels .failed).sess.state = .failed := rfl

theorem witness_GrowDoublesUntilSufficient : 0 < 8000 ∧ 8000 ≤ 8000 ∧ 8000 < 8001 := by decide

/-- For EndSignalsEndOfStream, FinalizeReportsItsErrors and FinalizeProducesThePacket. -/
theorem witness_session_states :
    State.reset.sess.state = .idle ∧ (twoChannels .opened).sess.state = .opened ∧
    (twoChannels .ended).sess.state = .ended ∧ (twoChannels .done).sess.state = .done ∧
    (twoChannels .failed).sess.state = .failed := by decide

theorem witness_FinalizeProducesThePacket : (twoChannels .ended).sess.state = .ended ∧ (twoChannels .ended).Inv :=
  ⟨rfl, twoChannels_inv .ended (by decide)⟩

/-- The first and the last byte of channel 1's block. -/
theorem witness_PacketHoldsTheClippedDifferences :
    (twoChannels .ended).Inv ∧ (twoChannels .ended).sess.state = .ended ∧
    (twoChannels .ended).cfg.catchupScope = .perChannel ∧ (∃ t, exec .finalize (twoChannels .ended) = .next t) ∧
    (1 : Fin 16).val < (twoChannels .ended).sess.channelCount.toNat ∧
    0 < (twoChannels .ended).sess.sampleCount.toNat ∧ 2 < (twoChannels .ended).sess.sampleCount.toNat :=
  ⟨twoChannels_inv .ended (by decide), rfl, rfl, ⟨_, rfl⟩, by decide, by decide, by decide⟩

/-- The edges of the three ranges, with and without the adjustment. -/
theorem witness_EncoderIterationClipsAndRecords :
    (128 : Int) = ((127#8 : Byte).toNat : Int) - (127#8 : Byte).toNat + (if true = true ∧ 127#8 = 127#8 then 128 else 0) ∧
    (-129 : Int) = ((0#8 : Byte).toNat : Int) - (129#8 : Byte).toNat + (if true = true ∧ 129#8 = 127#8 then 5 else 0) ∧
    (127 : Int) = ((127#8 : Byte).toNat : Int) - (0#8 : Byte).toNat + (if false = true ∧ 0#8 = 127#8 then 5 else 0) := by
  decide

theorem witness_CatchupNeverFiresWithinAChannel :
    ([0#8, 200#8] : List Byte)[0]? = some 0#8 ∧ ([0#8, 200#8] : List Byte)[0 + 1]? = some 200#8 := by decide

theorem noClip_of_three (a b c : Byte) (h1 : -128 ≤ (b.toNat : Int) - a.toNat ∧ (b.toNat : Int) - a.toNat ≤ 127)
    (h2 : -128 ≤ (c.toNat : Int) - b.toNat ∧ (c.toNat : Int) - b.toNat ≤ 127) : noClip [a, b, c] := by
  rintro (_ | _ | i) x y hx hy
  · cases hx; cases hy; exact h1
  · cases hx; cases hy; exact h2
  · simp at hy

/-- A channel that does not clip, and one that does. -/
theorem witness_ChannelRoundTripsExactlyWithoutClipping :
    noClip [0#8, 100#8, 200#8] ∧ deltaDecode (deltaEncodeChannel [0#8, 200#8] Catchup.clear).1 ≠ [0#8, 200#8] :=
  ⟨noClip_of_three _ _ _ (by decide) (by decide), by decide⟩

theorem witness_DeltaDecodeAddsModulo256 :
    (deltaDecode [0x01#8, 0xFF#8])[0]? = some 0x01#8 ∧ ([0x01#8, 0xFF#8] : List Byte)[0 + 1]? = some 0xFF#8 := by decide

/-- The edges of the three error clauses: 13 bytes, a wrong magic, 17 channels, one byte too few. -/
theorem witness_DecodeChecksInOrder :
    (withIn State.reset ((headerBytes 1#8).take 13)).inLen.toNat < 14 ∧
    ¬ (withIn State.reset [0x41, 0x73, 0x69, 0x66]).inStartsWithMagic ∧
    ((withIn State.reset (headerBytes 17#8)).inHoldsHeader ∧ 16 < (withIn State.reset (headerBytes 17#8)).inChannels.toNat) ∧
    ((withIn State.reset (headerBytes 1#8)).inHoldsHeader ∧
      (withIn State.reset (headerBytes 1#8)).inChannels.toNat ≤ 16 ∧
      (withIn State.reset (headerBytes 1#8)).inLen.toNat <
        14 + (withIn State.reset (headerBytes 1#8)).inChannels.toNat *
          (withIn State.reset (headerBytes 1#8)).inCount.toNat) :=
  ⟨by decide, fun h => absurd h.1 (by decide), ⟨headerBytes_held 17#8, by decide⟩,
    headerBytes_held 1#8, by decide, by decide⟩

/-- The clauses of DecodeReconstructsEveryChannel: test_decode's packet of two channels of four samples. -/
theorem witness_DecodeReconstructsEveryChannel :
    let s := withIn State.reset [0x61, 0x73, 0x69, 0x66, 0x40, 0x1F, 0, 0, 0x02, 0, 0x04, 0, 0, 0,
      0x01, 0x01, 0x01, 0x01, 0x02, 0xFF, 0xFF, 0xFF]
    s.inHoldsHeader ∧ s.inChannels.toNat = 2 ∧ s.inCount.toNat = 4 ∧
      14 + s.inChannels.toNat * s.inCount.toNat ≤ s.inLen.toNat :=
  ⟨⟨by decide, by simp [State.inStartsWithMagic, State.inByte, withIn, Memory.ofBytes, Memory.layFrom, Memory.read]⟩,
    by decide, by decide, by decide⟩

/-- Two states that differ in the session and in the bytes beyond IN_LEN. -/
theorem witness_DecodeDependsOnlyOnItsInput :
    sameIn (withIn State.reset (headerBytes 0#8))
      { withIn (twoChannels .failed) (headerBytes 0#8 ++ [5#8]) with inLen := 14#32 } :=
  ⟨by decide, by decide⟩

/-- A session of two channels none of whose differences clips, its packet, and a state that presents it. -/
theorem witness_FinalizeThenDecodeReturnsTheSamples :
    (twoChannels .ended).Inv ∧ (twoChannels .ended).sess.state = .ended ∧
    (∀ c : Fin 16, c.val < (twoChannels .ended).sess.channelCount.toNat →
      noClip (twoChannels .ended).sess.buffers[c].data) ∧
    ∃ t, exec .finalize (twoChannels .ended) = .next t ∧
      (withIn State.reset t.out).inLen.toNat = t.out.length ∧
      ∀ a b, t.out[a]? = some b → (withIn State.reset t.out).inByte a = b := by
  refine ⟨twoChannels_inv .ended (by decide), rfl, ?_, _, rfl, by decide, ?_⟩
  · intro c hc
    have : c = 0 ∨ c = 1 := by revert c; decide
    rcases this with rfl | rfl
    · exact noClip_of_three 10#8 15#8 9#8 (by decide) (by decide)
    · exact noClip_of_three 0#8 100#8 200#8 (by decide) (by decide)
  · exact fun a b h => inByte_of_read _ _ _ (Memory.read_ofBytes _ _ _ h)

/-- The clauses of HostReadsFollowTheRegisterMap: a register of the list, OUT_LEN, SESS_CAP with and without a session. -/
theorem witness_HostReadsFollowTheRegisterMap :
    (queued State.reset [.read 32 0x3C]).busy = false ∧
    (queued State.reset [.read 32 0x3C]).hostQueue = .read 32 0x3C :: [] ∧
    (0#32).toNat = State.reset.out.length ∧
    (0#32).toNat = (if 1 ≤ State.reset.sess.channelCount.toNat then State.reset.sess.buffers[0].capacity else 0) ∧
    (8000#32).toNat = (if 1 ≤ (twoChannels .done).sess.channelCount.toNat
      then (twoChannels .done).sess.buffers[0].capacity else 0) := by decide

theorem witness_HostWritesFollowTheRegisterMap :
    (queued State.reset [.write 32 0x10 5#32]).busy = false ∧
    (queued State.reset [.write 32 0x10 5#32]).hostQueue = .write 32 0x10 5#32 :: [] ∧
    0x3C ∈ [0x14, 0x18, 0x1C, 0x20, 0x24, 0x28, 0x2C, 0x30, 0x34, 0x38, 0x3C] := by decide

theorem witness_HostActionsLeaveTheBlockAlone :
    (queued State.reset [.write 32 0x04 1#32]).blockTurn = false ∧
    (queued State.reset [.write 32 0x04 1#32]).hostQueue.head? ≠ some .reset ∧
    ∃ t, step (queued State.reset [.write 32 0x04 1#32]) = .next t :=
  ⟨by decide, by decide, _, rfl⟩

/-- Both sides of HostProtocolFaultsExactly are met: the last forbidden offset while BUSY = 1, and a misaligned one. -/
theorem witness_HostProtocolFaultsExactly :
    (HostAction.write 32 0x10 0#32).forbidden true ∧ ¬ (HostAction.write 32 0x14 0#32).forbidden true ∧
    (HostAction.read 32 0x15).forbidden false ∧ ¬ (HostAction.loadIn []).forbidden false := by
  simp [HostAction.forbidden]

theorem witness_OnlyAccessesOutsideTheWindowAreRefused :
    step (queued State.reset [.write 32 0x40 0#32]) = .refused (.offBlockAccess 0x40) := rfl

/-- The last offset of the window, and STATUS. -/
theorem witness_BusyReadsReturnAnyValue :
    (queued { State.reset with busy := true } [.read 32 0x3C]).busy = true ∧
    (queued { State.reset with busy := true } [.read 32 0x3C]).hostQueue = .read 32 0x3C :: [] ∧
    (0x3C % 4 = 0 ∧ 0x3C < 0x40) ∧ 0x14 % 4 = 0 ∧ 0x14 < 0x40 := by decide

theorem witness_SuppliedBytesAreRead :
    (queued State.reset [.loadIn [1#8]]).busy = false ∧
    (queued State.reset [.loadIn [1#8]]).hostQueue = .loadIn [1#8] :: [] ∧
    (queued State.reset [.copyOutToIn]).hostQueue = .copyOutToIn :: [] ∧
    (queued (withIn State.reset [1#8]) [.pokeIn 1 2#8]).hostQueue = .pokeIn 1 2#8 :: [] ∧
    (withIn State.reset [1#8]).inMem.read 0 = some 1#8 := by decide

/-- Both ways of supplying IN, one of them empty. -/
theorem witness_SizingInStoresItsLength :
    (queued State.reset [.loadIn [1#8, 2#8], .sizeIn]).busy = false ∧ [1#8, 2#8].length < 2 ^ 32 ∧
    (queued State.reset [.loadIn [1#8, 2#8], .sizeIn]).hostQueue = .loadIn [1#8, 2#8] :: .sizeIn :: [] ∧
    (queued State.reset [.copyOutToIn, .sizeIn]).hostQueue = .copyOutToIn :: .sizeIn :: [] ∧
    [] = (queued State.reset [.copyOutToIn, .sizeIn]).out := by decide

theorem witness_IdleBlockKeepsItsState : State.reset.busy = false ∧ State.reset.hostQueue = [] := by decide

end Sys2Proof.Tests
end

section
/-! What R36 and R142 leave behind, the cleared session record, is legal, and so is the whole state after reset. -/

namespace Sys2Proof.Machine

@[simp] theorem Session.none_state : Session.none.state = .idle := rfl

@[simp] theorem Session.none_channelCount : Session.none.channelCount = 0#16 := rfl

theorem Session.none_buffers (c : Fin 16) : Session.none.buffers[c] = ChannelBuffer.empty := by
  simp [Session.none]

/-- No channel of the cleared session is a used one. -/
theorem Session.none_not_used (c : Fin 16) : ¬ c.val < Session.none.channelCount.toNat := by simp

/-- The cleared session record (R36, R142) is legal for every MAX_CAP: it is IDLE, and all its channels are unused. -/
theorem Session.inv_none (maxCap : Nat) : Session.none.Inv maxCap where
  idle _ := rfl
  channels h := absurd Session.none_state h
  used c hc := absurd hc (Session.none_not_used c)
  bounded c hc := absurd hc (Session.none_not_used c)
  geometric c hc := absurd hc (Session.none_not_used c)
  equalCaps c _ hc _ := absurd hc (Session.none_not_used c)
  unused c _ := Session.none_buffers c

/-- Settles O3: the parameters are legal by hypothesis, the session record is the cleared one, and IN is empty. -/
theorem resetMeetsTheInvariant : Obligations.ResetMeetsTheInvariant := by
  intro c hc
  exact { cfg := hc, sess := Session.inv_none c.maxCap, inMem := Memory.wf_reset c }

end Sys2Proof.Machine
end

section
/-! What each step can do, said once: a command, a host action, a step. The statements about all steps go through these
inversion lemmas. -/

namespace Sys2Proof.Machine

/-! ### Reset -/

theorem State.resetWith_status (c : Config) : (State.resetWith c).readReg .status = 0#32 :=
  (by decide : statusFields false 0#3 0x00#8 = 0#32)

/-- Settles O1: the record is the cleared session, and every other value is a field of the reset state. -/
theorem resetGivesTheStatedValues : Obligations.ResetGivesTheStatedValues := by
  rintro c s rfl
  exact ⟨rfl, rfl, rfl, rfl, Session.none_buffers, rfl, rfl, rfl, rfl, rfl,
    State.resetWith_status c, rfl, rfl, rfl, rfl, rfl, rfl⟩

/-! ### Commands -/

/-- The ways a command can complete, with what each one needs of the state before it. -/
inductive CommandEffect (s : State) : Instr → State → Prop where
  /-- The abort of R203. -/
  | aborts {i : Instr} {e : StatusCode} (he : e ≠ .ok) : CommandEffect s i (s.retire e [])
  /-- OK with nothing but output: HDR_ENC, and END outside OPEN. -/
  | outputs {i : Instr} (o : List Byte) : CommandEffect s i (s.retire .ok o)
  /-- OK with the header's fields in RES0 to RES2 (R115, R181). -/
  | results {i : Instr} (hi : i = .hdrDec ∨ i = .decodePacket) (r0 r1 r2 : Word) (o : List Byte) :
    CommandEffect s i ((s.withResults r0 r1 r2).retire .ok o)
  /-- PROBE's answer (R116). -/
  | confidence (v : Word) : CommandEffect s .probe ((s.withRes0 v).retire .ok [])
  /-- R131. -/
  | opens (idle : s.sess.state = .idle) (one_le : 1 ≤ s.channelsArg.toNat) (le_max : s.channelsArg.toNat ≤ 16) :
    CommandEffect s .openSession ((s.withSession (Session.create s.rateArg s.channelsArg)).retire .ok [])
  /-- R132. -/
  | appends (opened : s.sess.state = .opened) (fits : s.frameFits = true)
      (grows : s.sess.growthFails s.cfg.maxCap s.frameArg = false) :
    CommandEffect s .ingest ((s.withSession (s.sess.appendFrame s.framePart s.frameArg)).retire .ok [])
  /-- R136. -/
  | fails (opened : s.sess.state = .opened) (fits : s.frameFits = true)
      (overflows : s.sess.growthFails s.cfg.maxCap s.frameArg = true) :
    CommandEffect s .ingest ((s.withSessState .failed).retire .allocationFailure [])
  /-- R137. -/
  | ends (opened : s.sess.state = .opened) : CommandEffect s .endStream ((s.withSessState .ended).retire .ok [])
  /-- R140. -/
  | finalizes (ended : s.sess.state = .ended) :
    CommandEffect s .finalize ((s.withSessState .done).retire .ok (s.sess.packet s.cfg.catchupScope))
  /-- R142. -/
  | closes : CommandEffect s .closeSession ((s.withSession Session.none).retire .ok [])

section
variable {s t : State}

/-- A raised code other than OK is the abort. -/
theorem CommandEffect.of_raise {i : Instr} {e : StatusCode} (h : s.raise e = .next t) (he : e ≠ .ok) :
    CommandEffect s i t := by
  obtain rfl := (raise_eq_next_iff s t e).1 h
  exact .aborts he

theorem execHdrEnc_effect (h : execHdrEnc s = .next t) : CommandEffect s .hdrEnc t := by
  unfold execHdrEnc at h
  split at h
  · exact .of_raise h (by decide)
  · obtain rfl := (finish_eq_next_iff ..).1 h
    exact .outputs _

theorem execHdrDec_effect (h : execHdrDec s = .next t) : CommandEffect s .hdrDec t := by
  unfold execHdrDec at h
  split at h
  · exact .of_raise h (by decide)
  · obtain rfl := (finish_eq_next_iff ..).1 h
    exact .results (.inl rfl) ..

theorem execProbe_effect (h : execProbe s = .next t) : CommandEffect s .probe t := by
  obtain rfl := (finish_eq_next_iff ..).1 h
  exact .confidence _

theorem execOpen_effect (h : execOpen s = .next t) : CommandEffect s .openSession t := by
  unfold execOpen at h
  split at h
  · exact .of_raise h (by decide)
  next idle =>
    split at h
    · exact .of_raise h (by decide)
    · split at h
      · exact .of_raise h (by decide)
      next range =>
        obtain rfl := (finish_eq_next_iff ..).1 h
        simp only [maxChannels] at range
        exact .opens (not_not.1 idle) (by omega) (by omega)

theorem execIngest_effect (h : execIngest s = .next t) : CommandEffect s .ingest t := by
  unfold execIngest at h
  cases hst : s.sess.state <;> simp only [hst] at h
  case opened =>
    split at h
    · exact .of_raise h (by decide)
    next fits =>
      have fits : s.frameFits = true := by simpa using fits
      split at h
      next overflows =>
        obtain rfl := (raise_eq_next_iff ..).1 h
        exact .fails hst fits overflows
      next grows =>
        obtain rfl := (finish_eq_next_iff ..).1 h
        exact .appends hst fits (by simpa using grows)
  all_goals exact .of_raise h (by decide)

theorem execEnd_effect (h : execEnd s = .next t) : CommandEffect s .endStream t := by
  unfold execEnd at h
  cases hst : s.sess.state <;> simp only [hst] at h
  case idle | failed => exact .of_raise h (by decide)
  case opened =>
    obtain rfl := (finish_eq_next_iff ..).1 h
    exact .ends hst
  case ended | done =>
    obtain rfl := (finish_eq_next_iff ..).1 h
    exact .outputs []

theorem execFinalize_effect (h : execFinalize s = .next t) : CommandEffect s .finalize t := by
  unfold execFinalize at h
  cases hst : s.sess.state <;> simp only [hst] at h
  case ended =>
    obtain rfl := (finish_eq_next_iff ..).1 h
    exact .finalizes hst
  all_goals exact .of_raise h (by decide)

theorem execClose_effect (h : execClose s = .next t) : CommandEffect s .closeSession t := by
  obtain rfl := (finish_eq_next_iff ..).1 h
  exact .closes

theorem execDecode_effect (h : execDecode s = .next t) : CommandEffect s .decodePacket t := by
  unfold execDecode at h
  split at h
  · exact .of_raise h (by decide)
  · split at h
    · exact .of_raise h (by decide)
    · split at h
      · exact .of_raise h (by decide)
      · obtain rfl := (finish_eq_next_iff ..).1 h
        exact .results (.inr rfl) ..

/-- Everything a command can do. -/
theorem exec_effect {i : Instr} (h : exec i s = .next t) : CommandEffect s i t := by
  cases i with
  | hdrEnc => exact execHdrEnc_effect h
  | hdrDec => exact execHdrDec_effect h
  | probe => exact execProbe_effect h
  | openSession => exact execOpen_effect h
  | ingest => exact execIngest_effect h
  | endStream => exact execEnd_effect h
  | finalize => exact execFinalize_effect h
  | closeSession => exact execClose_effect h
  | decodePacket => exact execDecode_effect h

/-- The frame of a command: it writes at most the session record, RES0 to RES2, STATUS and OUT. -/
theorem CommandEffect.exists_update {i : Instr} (h : CommandEffect s i t) :
    ∃ x r0 r1 r2 c o, t = { s with sess := x, res0 := r0, res1 := r1, res2 := r2, code := c, out := o, busy := false } := by
  cases h <;> exact ⟨_, _, _, _, _, _, rfl⟩

end

/-- Settles O12: the updates a command can make are of none of these fields. -/
theorem commandsLeaveTheHostSideUnchanged : Obligations.CommandsLeaveTheHostSideUnchanged := by
  intro i s t h
  obtain ⟨x, r0, r1, r2, c, o, rfl⟩ := (exec_effect h).exists_update
  exact ⟨rfl, rfl, rfl, rfl, rfl, rfl, rfl, fun _ => rfl, rfl, rfl, rfl, rfl⟩

/-- Settles O13: of the ways to complete, only `results` and `confidence` write a result, and both end with OK. -/
theorem resultsAreWrittenOnlyBySuccess : Obligations.ResultsAreWrittenOnlyBySuccess := by
  intro i s t h
  cases exec_effect h with
  | results hi => obtain rfl | rfl := hi <;> simp
  | confidence => simp
  | aborts | outputs | opens | appends | fails | ends | finalizes | closes => simp

/-! ### Host actions -/

/-- The ways a host action can go on. -/
inductive HostEffect (s : State) : HostAction → State → Prop where
  /-- A register write, `sizeIn` among them. -/
  | writes {a : HostAction} (ha : a ≠ .reset) (r : Reg) (v : Word) : HostEffect s a (s.writeReg r v)
  /-- A register read, whether BUSY is 0 or 1. -/
  | reads {a : HostAction} (ha : a ≠ .reset) (v : Word) (n : Nat) :
    HostEffect s a { s with hostData := v, busyReads := n }
  /-- IN supplied or changed, in canonical form if it was. -/
  | supplies {a : HostAction} (ha : a ≠ .reset) (m : Memory) (canonical : s.inMem.wf = true → m.wf = true) :
    HostEffect s a { s with inMem := m, inEpoch := s.inEpoch + 1 }
  | waits : HostEffect s .await s
  | resets : HostEffect s .reset s.resetBlock

section
variable {s t : State}

theorem hostWrite_effect {a : HostAction} {width offset : Nat} {v : Word} (h : hostWrite s width offset v = .next t)
    (ha : a ≠ .reset) : HostEffect s a t := by
  obtain ⟨_, hw⟩ | ⟨_, _, _, hw⟩ | ⟨r, _, _, _, ⟨_, _, _, hw⟩ | ⟨_, hw⟩⟩ := hostWrite_cases s width offset v <;>
    rw [hw] at h <;> cases h
  exact .writes ha r v

theorem hostRead_effect {a : HostAction} {width offset : Nat} (h : hostRead s width offset = .next t)
    (ha : a ≠ .reset) : HostEffect s a t := by
  obtain ⟨_, hr⟩ | ⟨_, _, _, hr⟩ | ⟨r, _, _, _, hr⟩ := hostRead_cases s width offset <;> rw [hr] at h <;> cases h
  split
  · exact .reads ha _ _
  · exact .reads ha _ s.busyReads

theorem hostSupply_effect {a : HostAction} {m : Memory} (h : hostSupply s m = .next t) (ha : a ≠ .reset)
    (canonical : s.inMem.wf = true → m.wf = true) : HostEffect s a t := by
  unfold hostSupply at h
  split at h <;> cases h
  exact .supplies ha m canonical

/-- Everything a host action can do. -/
theorem hostAct_effect {a : HostAction} (h : hostAct s a = .next t) : HostEffect s a t := by
  cases a with
  | write width offset v => exact hostWrite_effect h nofun
  | read width offset => exact hostRead_effect h nofun
  | loadIn bytes => exact hostSupply_effect h nofun fun _ => Memory.wf_ofBytes bytes
  | pokeIn addr b => exact hostSupply_effect h nofun (Memory.wf_write s.inMem addr b)
  | copyOutToIn => exact hostSupply_effect h nofun fun _ => Memory.wf_ofBytes s.out
  | sizeIn => exact hostWrite_effect (show hostWrite s 32 0x10 (lengthWord s.inMem.extent) = .next t from h) nofun
  | await => cases h; exact .waits
  | reset => cases h; exact .resets

/-- Only reset touches the session or a parameter on the host's side. -/
theorem HostEffect.keeps_session {a : HostAction} (h : HostEffect s a t) (ha : a ≠ .reset) : t.sess = s.sess := by
  cases h with
  | writes _ r v => exact (writeReg_keeps s r v).1
  | resets => exact absurd rfl ha
  | reads | supplies | waits => rfl

/-! ### Steps -/

/-- Everything a step can do: the block performs a command or refuses an illegal word, or the host has nothing to do or
takes its first action. -/
theorem step_cases (h : step s = .next t) :
    (∃ i, s.performs i ∧ CommandEffect s i t) ∨
    (s.blockTurn = true ∧ (∃ e, decode s.fetch = .error e) ∧ t = s.retire .invalidCommand []) ∨
    (s.blockTurn = false ∧ s.hostQueue = [] ∧ t = s) ∨
    ∃ a rest, s.blockTurn = false ∧ s.hostQueue = a :: rest ∧ HostEffect { s with hostQueue := rest } a t := by
  cases turn : s.blockTurn with
  | true =>
    rw [step_of_blockTurn s turn] at h
    unfold blockStep at h
    cases word : decode s.fetch with
    | ok i =>
      rw [word] at h
      exact .inl ⟨i, ⟨turn, word⟩, exec_effect h⟩
    | error e =>
      rw [word] at h
      exact .inr (.inl ⟨rfl, ⟨e, rfl⟩, (raise_eq_next_iff ..).1 h⟩)
  | false =>
    simp only [step, turn, hostTurn, Bool.false_eq_true, if_false] at h
    cases queue : s.hostQueue with
    | nil =>
      rw [queue] at h
      cases h
      exact .inr (.inr (.inl ⟨rfl, rfl, rfl⟩))
    | cons a rest =>
      rw [queue] at h
      exact .inr (.inr (.inr ⟨a, rest, rfl, rfl, hostAct_effect h⟩))

end

end Sys2Proof.Machine
end

section
/-! The session's invariant (R23), kept by each operation on the session record, and by every step. -/

namespace Sys2Proof.Machine

/-! ### Operations on the session record -/

/-- From a capacity above 0, Grow gives the first sufficient doubling (R135). -/
theorem grow_spec {cap : Nat} (hcap : 0 < cap) (need : Nat) :
    ∃ m, grow cap need = cap * 2 ^ m ∧ need ≤ cap * 2 ^ m ∧ ∀ j, j < m → cap * 2 ^ j < need := by
  refine growLoop_spec _ cap need ?_
  calc need ≤ 2 ^ (need.log2 + 1) := Nat.lt_log2_self.le
    _ ≤ cap * 2 ^ (need.log2 + 1) := Nat.le_mul_of_pos_left _ hcap

/-- A move between the states of a session keeps the invariant. -/
theorem Session.Inv.withState {x : Session} {maxCap : Nat} (h : x.Inv maxCap) (hx : x.state ≠ .idle) {st : SessState}
    (hst : st ≠ .idle) : Session.Inv { x with state := st } maxCap where
  idle h' := absurd h' hst
  channels _ := h.channels hx
  used := h.used
  bounded := h.bounded
  geometric := h.geometric
  equalCaps := h.equalCaps
  unused := h.unused

/-- A used buffer of a session just opened (R131). -/
theorem Session.create_used_buffer {rate : Word} {channels : Half} {c : Fin 16} (hc : c.val < channels.toNat) :
    (Session.create rate channels).buffers[c] = { data := [], used := 0, capacity := 8000 } := by
  simp [Session.create, hc]

/-- An unused buffer of a session just opened (R131). -/
theorem Session.create_unused_buffer {rate : Word} {channels : Half} {c : Fin 16} (hc : channels.toNat ≤ c.val) :
    (Session.create rate channels).buffers[c] = ChannelBuffer.empty := by
  simp [Session.create, ChannelBuffer.empty, Nat.not_lt.2 hc]

/-- OPEN's record is legal (R131). -/
theorem Session.inv_create {rate : Word} {channels : Half} {maxCap : Nat} (one_le : 1 ≤ channels.toNat)
    (le_max : channels.toNat ≤ 16) (cap : 8000 ≤ maxCap) : (Session.create rate channels).Inv maxCap where
  idle := nofun
  channels _ := ⟨one_le, le_max⟩
  used c hc := by rw [create_used_buffer (channels := channels) hc]; exact ⟨rfl, rfl⟩
  bounded c hc := by rw [create_used_buffer (channels := channels) hc]; exact ⟨Nat.zero_le _, cap⟩
  geometric c hc := ⟨0, by rw [create_used_buffer (channels := channels) hc]; rfl⟩
  equalCaps c d hc hd := by
    rw [create_used_buffer (channels := channels) hc, create_used_buffer (channels := channels) hd]
  unused c hc := create_unused_buffer (channels := channels) hc

section
variable {x : Session} {maxCap k : Nat} {frame : Nat → List Byte} {c : Fin 16}

/-- A used channel's capacity is never 0. -/
theorem Session.Inv.capacity_pos (h : x.Inv maxCap) (hc : c.val < x.channelCount.toNat) : 0 < x.buffers[c].capacity := by
  obtain ⟨j, hj⟩ := h.geometric c hc
  rw [hj]
  positivity

/-- The grown capacity holds the samples (R132). -/
theorem Session.Inv.used_add_le_grown (h : x.Inv maxCap) (hc : c.val < x.channelCount.toNat) :
    x.buffers[c].used + k ≤ x.buffers[c].grownCapacity k := by
  obtain ⟨m, hm, need, _⟩ := grow_spec (h.capacity_pos hc) (x.buffers[c].used + k)
  rwa [ChannelBuffer.grownCapacity, hm]

/-- A grown capacity is still 8000 doubled (R9). -/
theorem Session.Inv.grown_geometric (h : x.Inv maxCap) (hc : c.val < x.channelCount.toNat) :
    ∃ j, x.buffers[c].grownCapacity k = 8000 * 2 ^ j := by
  obtain ⟨j, hj⟩ := h.geometric c hc
  obtain ⟨m, hm, _⟩ := grow_spec (h.capacity_pos hc) (x.buffers[c].used + k)
  exact ⟨j + m, by rw [ChannelBuffer.grownCapacity, hm, hj, pow_add, Nat.mul_assoc]⟩

/-- Growth that does not fail stays under MAX_CAP in every used channel. -/
theorem grown_le_of_not_growthFails (grows : x.growthFails maxCap k = false) (hc : c.val < x.channelCount.toNat) :
    x.buffers[c].grownCapacity k ≤ maxCap := by
  by_contra hlt
  have := (growthFails_iff x maxCap k).2 ⟨c, hc, Nat.not_le.1 hlt⟩
  simp [grows] at this

/-- The 32-bit sample count does not wrap: what it counts fits under MAX_CAP (R144). -/
theorem Session.Inv.sampleCount_add_toNat (h : x.Inv maxCap) (cap : maxCap < 2 ^ 32)
    (grows : x.growthFails maxCap k = false) (hc : c.val < x.channelCount.toNat) :
    (x.sampleCount + BitVec.ofNat 32 k).toNat = x.sampleCount.toNat + k := by
  have held := (h.used c hc).2
  have room := h.used_add_le_grown (k := k) hc
  have limit := grown_le_of_not_growthFails grows hc
  rw [BitVec.toNat_add, BitVec.toNat_ofNat, Nat.add_mod_mod, Nat.mod_eq_of_lt (by omega)]

theorem appendFrame_used_buffer (hc : c.val < x.channelCount.toNat) :
    (x.appendFrame frame k).buffers[c] = x.buffers[c].append (frame c.val) k := by
  rw [appendFrame_buffer, if_pos hc]

/-- INGEST's frame keeps the invariant when growth does not fail (R132, R134, R135). -/
theorem Session.Inv.appendFrame (h : x.Inv maxCap) (hx : x.state ≠ .idle) (cap : maxCap < 2 ^ 32)
    (grows : x.growthFails maxCap k = false) (whole : ∀ c, (frame c).length = k) :
    (x.appendFrame frame k).Inv maxCap where
  idle h' := absurd h' hx
  channels _ := h.channels hx
  used c hc := by
    obtain ⟨length, count⟩ := h.used c hc
    have sum : (x.appendFrame frame k).sampleCount.toNat = x.sampleCount.toNat + k :=
      h.sampleCount_add_toNat cap grows hc
    rw [appendFrame_used_buffer (x := x) hc, sum]
    simpa [ChannelBuffer.append, whole, ← count] using length
  bounded c hc := by
    rw [appendFrame_used_buffer (x := x) hc]
    exact ⟨h.used_add_le_grown hc, grown_le_of_not_growthFails grows hc⟩
  geometric c hc := by
    rw [appendFrame_used_buffer (x := x) hc]
    exact h.grown_geometric hc
  equalCaps c d hc hd := by
    rw [appendFrame_used_buffer (x := x) hc, appendFrame_used_buffer (x := x) hd]
    simp only [ChannelBuffer.append, ChannelBuffer.grownCapacity, h.equalCaps c d hc hd, (h.used c hc).2,
      (h.used d hd).2]
  unused c hc := by
    have hc : x.channelCount.toNat ≤ c.val := hc
    rw [appendFrame_buffer, if_neg (Nat.not_lt.2 hc)]
    exact h.unused c hc

end

/-! ### Steps -/

theorem Config.legal_bounds {c : Config} (h : c.legal = true) : 8000 ≤ c.maxCap ∧ c.maxCap < 2 ^ 32 := by
  simp only [Config.legal, Bool.and_eq_true, decide_eq_true_eq] at h
  omega

section
variable {s t : State}

/-- Each way a command completes leaves a legal session record. -/
theorem CommandEffect.keeps_session_inv {i : Instr} (e : CommandEffect s i t) (h : s.Inv) :
    t.sess.Inv s.cfg.maxCap := by
  obtain ⟨low, high⟩ := Config.legal_bounds h.cfg
  cases e with
  | aborts | outputs | results | confidence => exact h.sess
  | opens _ one_le le_max => exact Session.inv_create one_le le_max low
  | appends opened _ grows => exact h.sess.appendFrame (by simp [opened]) high grows fun _ => readIn_length ..
  | fails opened | ends opened => exact h.sess.withState (by simp [opened]) nofun
  | finalizes ended => exact h.sess.withState (by simp [ended]) nofun
  | closes => exact Session.inv_none _

/-- A command's step keeps the invariant: the parameters and IN are in its frame. -/
theorem CommandEffect.keeps_inv {i : Instr} (e : CommandEffect s i t) (h : s.Inv) : t.Inv := by
  have legal := e.keeps_session_inv h
  obtain ⟨x, r0, r1, r2, c, o, rfl⟩ := e.exists_update
  exact { cfg := h.cfg, sess := legal, inMem := h.inMem }

/-- A host action keeps the invariant. -/
theorem HostEffect.keeps_inv {a : HostAction} (e : HostEffect s a t) (h : s.Inv) : t.Inv := by
  cases e with
  | writes _ r v =>
    obtain ⟨sess, cfg, inMem⟩ := writeReg_keeps s r v
    exact { cfg := by rw [cfg]; exact h.cfg, sess := by rw [sess, cfg]; exact h.sess, inMem := by rw [inMem]; exact h.inMem }
  | supplies _ m canonical => exact { cfg := h.cfg, sess := h.sess, inMem := canonical h.inMem }
  | reads => exact { cfg := h.cfg, sess := h.sess, inMem := h.inMem }
  | waits => exact h
  | resets => exact { cfg := h.cfg, sess := Session.inv_none _, inMem := rfl }

end

/-- Settles O4: by the cases of a step, each command and each host action keeping the invariant. -/
theorem everyStepKeepsTheInvariant : Obligations.EveryStepKeepsTheInvariant := by
  intro s t h hstep
  obtain ⟨i, _, effect⟩ | ⟨_, _, rfl⟩ | ⟨_, _, rfl⟩ | ⟨a, rest, _, _, effect⟩ := step_cases hstep
  · exact effect.keeps_inv h
  · exact { cfg := h.cfg, sess := h.sess, inMem := h.inMem }
  · exact h
  · exact effect.keeps_inv { cfg := h.cfg, sess := h.sess, inMem := h.inMem }

end Sys2Proof.Machine
end

section
/-! The life of one session: what every step but CLOSE and reset keeps of it (R24, R134, R135). -/

namespace Sys2Proof.Machine

/-- `y` is a later record of the living session `x`: same header fields, samples only appended, capacities never
smaller. -/
structure Session.Continues (x y : Session) : Prop where
  lives : y.state ≠ .idle
  sampleRate : y.sampleRate = x.sampleRate
  channelCount : y.channelCount = x.channelCount
  buffers : ∀ c : Fin 16, x.buffers[c].data <+: y.buffers[c].data ∧ x.buffers[c].capacity ≤ y.buffers[c].capacity

/-- A change of state, or none at all. -/
theorem Session.Continues.withState (x : Session) {st : SessState} (hst : st ≠ .idle) :
    x.Continues { x with state := st } where
  lives := hst
  sampleRate := rfl
  channelCount := rfl
  buffers _ := ⟨List.prefix_rfl, le_rfl⟩

theorem Session.Continues.refl {x : Session} (h : x.state ≠ .idle) : x.Continues x := .withState x h

theorem Session.Continues.trans {x y z : Session} (hxy : x.Continues y) (hyz : y.Continues z) : x.Continues z where
  lives := hyz.lives
  sampleRate := hyz.sampleRate.trans hxy.sampleRate
  channelCount := hyz.channelCount.trans hxy.channelCount
  buffers c := ⟨(hxy.buffers c).1.trans (hyz.buffers c).1, (hxy.buffers c).2.trans (hyz.buffers c).2⟩

/-- A frame appends to the used channels and grows them (R134, R135), whatever it holds. -/
theorem Session.Continues.appendFrame {x : Session} (h : x.state ≠ .idle) (frame : Nat → List Byte) (k : Nat) :
    x.Continues (x.appendFrame frame k) where
  lives := h
  sampleRate := rfl
  channelCount := rfl
  buffers c := by
    rw [appendFrame_buffer]
    split
    · exact ⟨List.prefix_append _ _, le_grow _ _⟩
    · exact ⟨List.prefix_rfl, le_rfl⟩

/-- Every command but CLOSE continues a living session; OPEN refuses it. -/
theorem CommandEffect.continues {s t : State} {i : Instr} (e : CommandEffect s i t) (hi : i ≠ .closeSession)
    (h : s.sess.state ≠ .idle) : s.sess.Continues t.sess := by
  cases e with
  | aborts | outputs | results | confidence => exact .refl h
  | opens idle => exact absurd idle h
  | appends => exact .appendFrame h _ _
  | fails | ends | finalizes => exact .withState _ nofun
  | closes => exact absurd rfl hi

/-- Every step but CLOSE and reset continues a living session. -/
theorem step_continues {s t : State} (hstep : step s = .next t) (hends : ¬ s.endsSession) (h : s.sess.state ≠ .idle) :
    s.sess.Continues t.sess := by
  obtain ⟨i, performs, effect⟩ | ⟨_, _, rfl⟩ | ⟨_, _, rfl⟩ | ⟨a, rest, turn, queue, effect⟩ := step_cases hstep
  · exact effect.continues (fun hi => hends (.inl (hi ▸ performs))) h
  · exact .refl h
  · exact .refl h
  · have notReset : a ≠ .reset := fun ha => hends (.inr ⟨turn, rest, ha ▸ queue⟩)
    rw [effect.keeps_session notReset]
    exact .refl h

/-- A living session continues along its whole life. -/
theorem SessionLife.continues {s t : State} (life : SessionLife s t) (h : s.sess.state ≠ .idle) :
    s.sess.Continues t.sess := by
  induction life with
  | here => exact .refl h
  | step _ lives next ih => exact ih.trans (step_continues next lives ih.lives)

/-- Settles O20: the session continues along its life. -/
theorem sessionKeepsItsHeaderAndSamples : Obligations.SessionKeepsItsHeaderAndSamples := by
  intro s t life h
  obtain ⟨lives, rate, channels, buffers⟩ := life.continues h
  exact ⟨lives, rate, channels, buffers⟩

end Sys2Proof.Machine
end

section
/-! The host's steps between commands: the register map read and written (R59, R60), and IN supplied (R52). -/

namespace Sys2Proof.Machine

/-! ### The register map -/

/-- A register stands at a multiple of 4 (R56, R60). -/
theorem aligned_of_ofOffset {offset : Nat} {r : Reg} (h : Reg.ofOffset offset = some r) : offset % 4 = 0 := by
  have table : ∀ o : Fin 0x40, Reg.ofOffset o.val ≠ none → o.val % 4 = 0 := by decide
  exact table ⟨offset, offset_lt_of_ofOffset h⟩ (by simp [h])

/-- CMD is the register at offset 0 only (R60). -/
theorem ofOffset_eq_cmd_iff {offset : Nat} : Reg.ofOffset offset = some .cmd ↔ offset = 0 := by
  constructor
  · intro h
    have table : ∀ o : Fin 0x40, Reg.ofOffset o.val = some .cmd → o.val = 0 := by decide
    exact table ⟨offset, offset_lt_of_ofOffset h⟩ h
  · rintro rfl
    rfl

/-- A length register shows a count that fits it (R29). -/
theorem lengthWord_eq_of_toNat {n : Nat} {v : Word} (h : v.toNat = n) : lengthWord n = v := by
  subst h
  rw [lengthWord, if_pos v.isLt, BitVec.ofNat_toNat, BitVec.setWidth_eq]

/-- SESS_CAP where channel 0's capacity fits it (R28). -/
theorem sessCapWord_eq_of_toNat {s : State} {v : Word}
    (h : v.toNat = if 1 ≤ s.sess.channelCount.toNat then s.sess.buffers[0].capacity else 0) : s.sessCapWord = v := by
  unfold State.sessCapWord
  split at h
  next one_le => rw [if_pos one_le, lengthWord_eq_of_toNat h]
  next none_used =>
    rw [if_neg none_used]
    exact BitVec.eq_of_toNat_eq h.symm

/-- No register shows the host's pending actions. -/
theorem readReg_hostQueue (s : State) (q : List HostAction) (r : Reg) :
    State.readReg { s with hostQueue := q } r = s.readReg r := by
  cases r <;> rfl

section
variable {s : State} {offset : Nat} {r : Reg} {rest : List HostAction}

/-- Between commands a register read latches the register's value and does nothing else (R59). -/
theorem hostRead_of_not_busy (hbusy : s.busy = false) (hr : Reg.ofOffset offset = some r) :
    hostRead s 32 offset = .next { s with hostData := s.readReg r } := by
  have aligned := (accessWellFormed_iff 32 offset).2 ⟨rfl, aligned_of_ofOffset hr⟩
  simp [hostRead, aligned, hr, hbusy]

/-- Between commands a register write reaches its register (R59). -/
theorem hostWrite_of_not_busy (hbusy : s.busy = false) (hr : Reg.ofOffset offset = some r) (v : Word) :
    hostWrite s 32 offset v = .next (s.writeReg r v) := by
  have aligned := (accessWellFormed_iff 32 offset).2 ⟨rfl, aligned_of_ofOffset hr⟩
  simp [hostWrite, aligned, hr, hbusy]

theorem step_read (hbusy : s.busy = false) (hq : s.hostQueue = .read 32 offset :: rest)
    (hr : Reg.ofOffset offset = some r) : step s = .next { s with hostQueue := rest, hostData := s.readReg r } := by
  rw [step_of_host_action s _ rest hq nofun, ← readReg_hostQueue s rest r]
  exact hostRead_of_not_busy (s := { s with hostQueue := rest }) hbusy hr

theorem step_write {v : Word} (hbusy : s.busy = false) (hq : s.hostQueue = .write 32 offset v :: rest)
    (hr : Reg.ofOffset offset = some r) : step s = .next (State.writeReg { s with hostQueue := rest } r v) := by
  rw [step_of_host_action s _ rest hq nofun]
  exact hostWrite_of_not_busy (s := { s with hostQueue := rest }) hbusy hr v

end

/-- Settles O50: each offset of the map holds the register whose value the map gives. -/
theorem hostReadsFollowTheRegisterMap : Obligations.HostReadsFollowTheRegisterMap := by
  intro s offset rest hbusy hq v hmap
  obtain ⟨r, hr, rfl⟩ : ∃ r, Reg.ofOffset offset = some r ∧ s.readReg r = v := by
    obtain listed | ⟨rfl, h⟩ | ⟨rfl, h⟩ := hmap
    · simp only [List.mem_cons, Prod.mk.injEq, List.not_mem_nil, or_false] at listed
      obtain ⟨rfl, rfl⟩ | ⟨rfl, rfl⟩ | ⟨rfl, rfl⟩ | ⟨rfl, rfl⟩ | ⟨rfl, rfl⟩ | ⟨rfl, rfl⟩ | ⟨rfl, rfl⟩ | ⟨rfl, rfl⟩ |
        ⟨rfl, rfl⟩ | ⟨rfl, rfl⟩ | ⟨rfl, rfl⟩ | ⟨rfl, rfl⟩ | ⟨rfl, rfl⟩ | ⟨rfl, rfl⟩ := listed <;>
        exact ⟨_, rfl, rfl⟩
    · exact ⟨.outLen, rfl, lengthWord_eq_of_toNat h⟩
    · exact ⟨.sessCap, rfl, sessCapWord_eq_of_toNat h⟩
  exact step_read hbusy hq hr

/-- The registers a host write is ignored by (R25, R60). -/
theorem writeReg_ignored {s : State} {offset : Nat} {v : Word}
    (h : offset ∈ [0x14, 0x18, 0x1C, 0x20, 0x24, 0x28, 0x2C, 0x30, 0x34, 0x38, 0x3C]) :
    ∃ r, Reg.ofOffset offset = some r ∧ s.writeReg r v = s := by
  simp only [List.mem_cons, List.not_mem_nil, or_false] at h
  obtain rfl | rfl | rfl | rfl | rfl | rfl | rfl | rfl | rfl | rfl | rfl := h <;> exact ⟨_, rfl, rfl⟩

/-- Settles O51: a write reaches the register at its offset, which stores it or ignores it. -/
theorem hostWritesFollowTheRegisterMap : Obligations.HostWritesFollowTheRegisterMap := by
  intro s offset v rest hbusy hq
  refine ⟨?arg0, ?arg1, ?arg2, ?inLen, fun ignored => ?_⟩
  case arg0 | arg1 | arg2 | inLen =>
    rintro rfl
    exact step_write hbusy hq rfl
  obtain ⟨r, hr, same⟩ := writeReg_ignored (s := { s with hostQueue := rest }) (v := v) ignored
  rw [step_write hbusy hq hr, same]

/-! ### Supplying IN -/

/-- Between commands the host may change IN (R52). -/
theorem hostSupply_of_not_busy {s : State} (hbusy : s.busy = false) (m : Memory) :
    hostSupply s m = .next { s with inMem := m, inEpoch := s.inEpoch + 1 } := by
  simp [hostSupply, hbusy]

/-- A step between commands that changes IN to `m` gives a state in which the bytes `m` lists are the bytes read. -/
theorem step_supply {s : State} {a : HostAction} {m : Memory} {rest : List HostAction} (hbusy : s.busy = false)
    (hq : s.hostQueue = a :: rest) (ha : a ≠ .await)
    (supply : hostAct { s with hostQueue := rest } a = hostSupply { s with hostQueue := rest } m) :
    ∃ t, step s = .next t ∧ ∀ i b, m.read i = some b → t.inByte i = b := by
  rw [step_of_host_action s a rest hq ha, supply, hostSupply_of_not_busy (s := { s with hostQueue := rest }) hbusy]
  exact ⟨_, rfl, fun i b h => inByte_of_read _ i b h⟩

/-- Settles O56: what is laid out or written in IN's memory is what a read of IN returns. -/
theorem suppliedBytesAreRead : Obligations.SuppliedBytesAreRead := by
  refine ⟨fun s bytes rest hbusy hq => ?load, fun s rest hbusy hq => ?copy, fun s addr v rest hbusy hq => ?poke⟩
  case load =>
    obtain ⟨t, hstep, reads⟩ := step_supply hbusy hq nofun rfl
    exact ⟨t, hstep, fun a b h => reads a b (Memory.read_ofBytes bytes a b h)⟩
  case copy =>
    obtain ⟨t, hstep, reads⟩ := step_supply hbusy hq nofun rfl
    exact ⟨t, hstep, fun a b h => reads a b (Memory.read_ofBytes s.out a b h)⟩
  case poke =>
    obtain ⟨t, hstep, reads⟩ := step_supply hbusy hq nofun rfl
    exact ⟨t, hstep, reads addr v (Memory.read_write_same s.inMem addr v),
      fun a b ne h => reads a b ((Memory.read_write_other s.inMem v ne).trans h)⟩

end Sys2Proof.Machine
end

section
/-! The host's steps at any time: what they leave of the block (R59, R217), and which accesses do not reach it (R60). -/

namespace Sys2Proof.Machine

/-! ### The host's turn -/

theorem step_of_nothing_pending {s : State} (turn : s.blockTurn = false) (queue : s.hostQueue = []) : step s = .next s := by
  simp [step, turn, hostTurn, queue]

theorem step_of_pending {s : State} {a : HostAction} {rest : List HostAction} (turn : s.blockTurn = false)
    (queue : s.hostQueue = a :: rest) : step s = hostAct { s with hostQueue := rest } a := by
  simp [step, turn, hostTurn, queue]

/-- Sizing IN is a write of IN_LEN (R91). -/
theorem hostAct_sizeIn (s : State) : hostAct s .sizeIn = hostWrite s 32 0x10 (lengthWord s.inMem.extent) := rfl

/-! ### The frame of a host action -/

section
variable {s t : State}

/-- A register write leaves what no host write stores (R25, R59). -/
theorem writeReg_frame (s : State) (r : Reg) (v : Word) :
    (s.writeReg r v).code = s.code ∧ (s.writeReg r v).res0 = s.res0 ∧ (s.writeReg r v).res1 = s.res1 ∧
      (s.writeReg r v).res2 = s.res2 ∧ (s.writeReg r v).out = s.out := by
  cases r <;> exact ⟨rfl, rfl, rfl, rfl, rfl⟩

/-- Only a CMD write touches BUSY or CMD (R26, R80). -/
theorem writeReg_keeps_command {r : Reg} (hr : r ≠ .cmd) (v : Word) :
    (s.writeReg r v).busy = s.busy ∧ (s.writeReg r v).cmd = s.cmd := by
  cases r with
  | cmd => exact absurd rfl hr
  | _ => exact ⟨rfl, rfl⟩

/-- No host action but reset changes the session, STATUS.CODE, the results, OUT or a parameter (R59). -/
theorem HostEffect.keeps_block {a : HostAction} (h : HostEffect s a t) (ha : a ≠ .reset) :
    t.sess = s.sess ∧ t.code = s.code ∧ t.res0 = s.res0 ∧ t.res1 = s.res1 ∧ t.res2 = s.res2 ∧ t.out = s.out ∧
      t.cfg = s.cfg := by
  cases h with
  | writes _ r v =>
    obtain ⟨sess, cfg, _⟩ := writeReg_keeps s r v
    obtain ⟨code, res0, res1, res2, out⟩ := writeReg_frame s r v
    exact ⟨sess, code, res0, res1, res2, out, cfg⟩
  | reads | supplies | waits => exact ⟨rfl, rfl, rfl, rfl, rfl, rfl, rfl⟩
  | resets => exact absurd rfl ha

/-- A register write at another offset than CMD's leaves BUSY and CMD. -/
theorem hostWrite_keeps_command {width offset : Nat} {v : Word} (notCmd : width = 32 → offset ≠ 0)
    (h : hostWrite s width offset v = .next t) : t.busy = s.busy ∧ t.cmd = s.cmd := by
  obtain ⟨_, hw⟩ | ⟨_, _, _, hw⟩ | ⟨r, wide, _, hr, ⟨_, _, _, hw⟩ | ⟨_, hw⟩⟩ := hostWrite_cases s width offset v <;>
    rw [hw] at h <;> cases h
  refine writeReg_keeps_command (fun hcmd => notCmd wide ?_) v
  exact ofOffset_eq_cmd_iff.1 (hcmd ▸ hr)

theorem hostRead_keeps_command {width offset : Nat} (h : hostRead s width offset = .next t) :
    t.busy = s.busy ∧ t.cmd = s.cmd := by
  obtain ⟨_, hr⟩ | ⟨_, _, _, hr⟩ | ⟨r, _, _, _, hr⟩ := hostRead_cases s width offset <;> rw [hr] at h <;> cases h
  split <;> exact ⟨rfl, rfl⟩

theorem hostSupply_keeps_command {m : Memory} (h : hostSupply s m = .next t) : t.busy = s.busy ∧ t.cmd = s.cmd := by
  unfold hostSupply at h
  split at h <;> cases h
  exact ⟨rfl, rfl⟩

/-- No host action but reset and a CMD write changes BUSY or CMD (R59). -/
theorem hostAct_keeps_command {a : HostAction} (h : hostAct s a = .next t) (notReset : a ≠ .reset)
    (notCmd : ∀ v, a ≠ .write 32 0x00 v) : t.busy = s.busy ∧ t.cmd = s.cmd := by
  cases a with
  | write width offset v =>
    exact hostWrite_keeps_command (fun wide zero => notCmd v (by rw [wide, zero])) h
  | sizeIn =>
    rw [hostAct_sizeIn] at h
    exact hostWrite_keeps_command (fun _ => by decide) h
  | read => exact hostRead_keeps_command h
  | loadIn | pokeIn | copyOutToIn => exact hostSupply_keeps_command h
  | await => cases h; exact ⟨rfl, rfl⟩
  | reset => exact absurd rfl notReset

end

/-- Settles O52: with nothing pending the state stays; else the step is the host's first action. -/
theorem hostActionsLeaveTheBlockAlone : Obligations.HostActionsLeaveTheBlockAlone := by
  intro s t turn notReset hstep
  cases queue : s.hostQueue with
  | nil =>
    rw [step_of_nothing_pending turn queue] at hstep
    cases hstep
    exact ⟨rfl, rfl, rfl, rfl, rfl, rfl, rfl, fun _ => ⟨rfl, rfl⟩⟩
  | cons a rest =>
    rw [step_of_pending turn queue] at hstep
    rw [queue] at notReset
    have notReset : a ≠ .reset := by simpa using notReset
    obtain ⟨sess, code, res0, res1, res2, out, cfg⟩ := (hostAct_effect hstep).keeps_block notReset
    exact ⟨sess, code, res0, res1, res2, out, cfg, fun notCmd =>
      hostAct_keeps_command (s := { s with hostQueue := rest }) hstep notReset fun v => by simpa using notCmd v⟩

/-! ### Refusals -/

/-- No command is refused: each ends by `raise` or `finish` (R200). -/
theorem exists_exec_eq_next (i : Instr) (s : State) : ∃ t, exec i s = .next t := by
  cases i <;>
    simp only [exec, execHdrEnc, execHdrDec, execProbe, execOpen, execIngest, execEnd, execFinalize, execClose, execDecode]
  case probe | closeSession => exact ⟨_, rfl⟩
  all_goals repeat' split
  all_goals exact ⟨_, rfl⟩

/-- The block's step is never a stop (R84, R200). -/
theorem exists_blockStep_eq_next (s : State) : ∃ t, blockStep s = .next t := by
  unfold blockStep
  split
  · exact exists_exec_eq_next _ s
  · exact ⟨_, rfl⟩

section
variable {s : State} {ρ : Refusal}

theorem hostWrite_refused_iff {width offset : Nat} {v : Word} :
    hostWrite s width offset v = .refused ρ ↔
      width = 32 ∧ offset % 4 = 0 ∧ 0x40 ≤ offset ∧ ρ = .offBlockAccess offset := by
  obtain ⟨bad, hw⟩ | ⟨wide, aligned, outside, hw⟩ | ⟨r, _, _, hr, ⟨_, _, _, hw⟩ | ⟨_, hw⟩⟩ :=
    hostWrite_cases s width offset v <;> rw [hw]
  · exact iff_of_false nofun fun ⟨wide, aligned, _⟩ => bad ⟨wide, aligned⟩
  · simp [wide, aligned, outside, eq_comm]
  all_goals exact iff_of_false nofun fun ⟨_, _, outside, _⟩ => Nat.not_lt.2 outside (offset_lt_of_ofOffset hr)

theorem hostRead_refused_iff {width offset : Nat} :
    hostRead s width offset = .refused ρ ↔
      width = 32 ∧ offset % 4 = 0 ∧ 0x40 ≤ offset ∧ ρ = .offBlockAccess offset := by
  obtain ⟨bad, hr⟩ | ⟨wide, aligned, outside, hr⟩ | ⟨r, _, _, hreg, hr⟩ := hostRead_cases s width offset <;> rw [hr]
  · exact iff_of_false nofun fun ⟨wide, aligned, _⟩ => bad ⟨wide, aligned⟩
  · simp [wide, aligned, outside, eq_comm]
  · exact iff_of_false nofun fun ⟨_, _, outside, _⟩ => Nat.not_lt.2 outside (offset_lt_of_ofOffset hreg)

theorem hostSupply_not_refused (m : Memory) : hostSupply s m ≠ .refused ρ := by
  unfold hostSupply
  split <;> nofun

/-- The host's action is refused exactly when it is an aligned 32-bit access outside the window (R60, I17). -/
theorem hostAct_refused_iff {a : HostAction} :
    hostAct s a = .refused ρ ↔ ∃ offset, ρ = .offBlockAccess offset ∧ offset % 4 = 0 ∧ 0x40 ≤ offset ∧
      (a = .read 32 offset ∨ ∃ v, a = .write 32 offset v) := by
  constructor
  · intro h
    cases a with
    | write width offset v =>
      obtain ⟨rfl, aligned, outside, rfl⟩ := hostWrite_refused_iff.1 h
      exact ⟨offset, rfl, aligned, outside, .inr ⟨v, rfl⟩⟩
    | read width offset =>
      obtain ⟨rfl, aligned, outside, rfl⟩ := hostRead_refused_iff.1 h
      exact ⟨offset, rfl, aligned, outside, .inl rfl⟩
    | sizeIn =>
      rw [hostAct_sizeIn, hostWrite_refused_iff] at h
      obtain ⟨_, _, outside, _⟩ := h
      exact absurd outside (by decide)
    | loadIn | pokeIn | copyOutToIn => exact absurd h (hostSupply_not_refused _)
    | await | reset => nomatch h
  · rintro ⟨offset, rfl, aligned, outside, rfl | ⟨v, rfl⟩⟩
    · exact hostRead_refused_iff.2 ⟨rfl, aligned, outside, rfl⟩
    · exact hostWrite_refused_iff.2 ⟨rfl, aligned, outside, rfl⟩

/-- A refused step is the refusal of the host's first action. -/
theorem step_refused_iff :
    step s = .refused ρ ↔ ∃ a rest, s.hostQueue = a :: rest ∧ hostAct { s with hostQueue := rest } a = .refused ρ := by
  constructor
  · intro h
    cases turn : s.blockTurn with
    | true =>
      obtain ⟨t, ht⟩ := exists_blockStep_eq_next s
      rw [step_of_blockTurn s turn, ht] at h
      cases h
    | false =>
      cases queue : s.hostQueue with
      | nil =>
        rw [step_of_nothing_pending turn queue] at h
        cases h
      | cons a rest => exact ⟨a, rest, rfl, step_of_pending turn queue ▸ h⟩
  · rintro ⟨a, rest, queue, h⟩
    have notAwait : a ≠ .await := by rintro rfl; cases h
    rw [step_of_host_action s a rest queue notAwait, h]

end

/-- Settles O54: only the host's first action can be refused, and only as an access outside the window. -/
theorem onlyAccessesOutsideTheWindowAreRefused : Obligations.OnlyAccessesOutsideTheWindowAreRefused := by
  intro s ρ
  simp only [step_refused_iff, hostAct_refused_iff]
  constructor
  · rintro ⟨a, rest, queue, offset, named, aligned, outside, rfl | ⟨v, rfl⟩⟩
    · exact ⟨offset, rest, named, aligned, outside, .inl queue⟩
    · exact ⟨offset, rest, named, aligned, outside, .inr ⟨v, queue⟩⟩
  · rintro ⟨offset, rest, named, aligned, outside, queue | ⟨v, queue⟩⟩
    · exact ⟨_, rest, queue, offset, named, aligned, outside, .inl rfl⟩
    · exact ⟨_, rest, queue, offset, named, aligned, outside, .inr ⟨v, rfl⟩⟩

end Sys2Proof.Machine
end

section
/-! Which bytes of IN the header commands read (R57). -/

namespace Sys2Proof.Machine

section
variable {s u : State}

/-- A read of the first bytes of IN is those bytes. -/
theorem readIn_congr {n : Nat} (h : ∀ a, a < n → u.inByte a = s.inByte a) : u.readIn 0 n = s.readIn 0 n := by
  refine List.map_congr_left fun a ha => ?_
  rw [Nat.zero_add]
  exact h a (List.mem_range.1 ha)

/-- The header in IN is a function of IN_LEN and, where that is at least 14, of bytes 0 to 13 (R113, R115). -/
theorem inHeader_congr (hlen : u.inLen = s.inLen)
    (h : ∀ a, headerSize ≤ s.inSize → a < headerSize → u.inByte a = s.inByte a) : u.inHeader = s.inHeader := by
  unfold State.inHeader State.inSize
  rw [hlen]
  split
  · rfl
  next long => rw [readIn_congr fun a => h a (Nat.le_of_not_lt long)]

/-- Recognition is a function of IN_LEN and, where that is at least 4, of bytes 0 to 3 (R116). -/
theorem inRecognised_congr (hlen : u.inLen = s.inLen)
    (h : ∀ a, 4 ≤ s.inSize → a < 4 → u.inByte a = s.inByte a) : u.inRecognised = s.inRecognised := by
  unfold State.inRecognised State.inSize
  rw [hlen]
  by_cases long : 4 ≤ s.inLen.toNat
  · rw [readIn_congr fun a => h a long]
  · simp [long]

end

/-- HDR_DEC reads of IN only the header. -/
theorem exec_hdrDec_inMem {s : State} {m : Memory} (h : State.inHeader { s with inMem := m } = s.inHeader) :
    ∃ t, exec .hdrDec s = .next t ∧ exec .hdrDec { s with inMem := m } = .next { t with inMem := m } := by
  simp only [exec, execHdrDec, h]
  cases s.inHeader with
  | none => exact ⟨_, rfl, rfl⟩
  | some header => exact ⟨_, rfl, rfl⟩

/-- PROBE reads of IN only whether it is recognised. -/
theorem exec_probe_inMem {s : State} {m : Memory} (h : State.inRecognised { s with inMem := m } = s.inRecognised) :
    ∃ t, exec .probe s = .next t ∧ exec .probe { s with inMem := m } = .next { t with inMem := m } := by
  simp only [exec, execProbe, h]
  exact ⟨_, rfl, rfl⟩

/-- Settles O27: the header and the recognition depend on no other byte, whatever IN_LEN is. -/
theorem headerCommandsReadOnlyTheirBytes : Obligations.HeaderCommandsReadOnlyTheirBytes := by
  rintro s m _ rfl
  exact ⟨fun h => exec_hdrDec_inMem (inHeader_congr rfl h), fun h => exec_probe_inMem (inRecognised_congr rfl h)⟩

end Sys2Proof.Machine
end

section
/-! The encoder under PER_CHANNEL (R162, R167), and where each channel's block stands in the packet (R141). -/

namespace Sys2Proof.Machine

/-! ### One channel -/

/-- The catchup adjustment cannot fire on the difference from `prev`: no clip is pending, or `prev` is not the sample the
rule asks for (R163). -/
def Catchup.Quiet (k : Catchup) (prev : Byte) : Prop := k.pending = true → prev ≠ 127#8

theorem Catchup.quiet_clear (prev : Byte) : Catchup.clear.Quiet prev := nofun

/-- Without the adjustment the difference stands. Its comparison with -128 is false for every sample (R166). -/
theorem Catchup.Quiet.adjust_eq {k : Catchup} {prev : Byte} (h : k.Quiet prev) (d : Int) :
    catchupAdjust prev d k = d := by
  unfold catchupAdjust
  split
  next pending =>
    have not127 : ¬ (prev.toNat : Int) = 127 := fun h127 => h pending (BitVec.eq_of_toNat_eq (Int.ofNat_inj.1 h127))
    have notLow : ¬ (prev.toNat : Int) = -128 := by omega
    rw [if_neg not127, if_neg notLow]
  next => rfl

/-- The clip's value is the difference clipped (R164). -/
theorem clipDelta_fst (d amount : Int) : (clipDelta d amount).1 = max (-128) (min 127 d) := by
  unfold clipDelta
  split_ifs <;> omega

/-- A clip is pending only after a difference out of range (R164, R165). -/
theorem clipDelta_pending_iff (d amount : Int) : (clipDelta d amount).2.pending = true ↔ 127 < d ∨ d < -128 := by
  unfold clipDelta
  split_ifs <;> simp <;> omega

/-- A quiet iteration emits the clipped true difference. -/
theorem Catchup.Quiet.encodeDelta_fst {k : Catchup} {prev : Byte} (h : k.Quiet prev) (cur : Byte) :
    (encodeDelta prev cur k).1 = plainDelta prev cur := by
  simp only [encodeDelta, h.adjust_eq, clipDelta_fst, plainDelta]

/-- A quiet iteration hands on a quiet state: a difference that clips upwards ends above 127, one that clips downwards
below it (R167). -/
theorem Catchup.Quiet.encodeDelta_snd {k : Catchup} {prev : Byte} (h : k.Quiet prev) (cur : Byte) :
    (encodeDelta prev cur k).2.Quiet cur := by
  intro pending h127
  simp only [encodeDelta, h.adjust_eq, clipDelta_pending_iff] at pending
  have := prev.isLt
  have : cur.toNat = 127 := by rw [h127]; rfl
  omega

/-- From a quiet state every iteration emits the clipped true difference (R167). -/
theorem Catchup.Quiet.encodeDeltas_getElem? {k : Catchup} {first : Byte} (h : k.Quiet first) {rest : List Byte} {i : Nat}
    {prev cur : Byte} (hprev : (first :: rest)[i]? = some prev) (hcur : rest[i]? = some cur) :
    (encodeDeltas first rest k).1[i]? = some (plainDelta prev cur) := by
  induction rest generalizing first k i with
  | nil => simp at hcur
  | cons x xs ih =>
    cases i with
    | zero =>
      simp only [List.getElem?_cons_zero, Option.some.injEq] at hprev hcur
      subst hprev hcur
      simp [encodeDeltas, h.encodeDelta_fst]
    | succ i =>
      simp only [List.getElem?_cons_succ] at hprev hcur
      simpa [encodeDeltas] using ih (h.encodeDelta_snd x) hprev hcur

/-- A channel's first byte is its first sample (R160). -/
theorem deltaEncodeChannel_getElem?_zero (samples : List Byte) (k : Catchup) :
    (deltaEncodeChannel samples k).1[0]? = samples[0]? := by
  cases samples <;> rfl

/-- Started clear, a channel's later bytes are the clipped true differences (R167). -/
theorem deltaEncodeChannel_clear_getElem?_succ {samples : List Byte} {i : Nat} {prev cur : Byte}
    (hprev : samples[i]? = some prev) (hcur : samples[i + 1]? = some cur) :
    (deltaEncodeChannel samples Catchup.clear).1[i + 1]? = some (plainDelta prev cur) := by
  cases samples with
  | nil => simp at hprev
  | cons first rest =>
    exact (Catchup.quiet_clear first).encodeDeltas_getElem? hprev (by simpa using hcur)

/-! ### All channels -/

/-- Under PER_CHANNEL the state handed on is of no account: the blocks stand side by side, each started clear (R162). -/
theorem deltaEncodeFrom_perChannel (chs : List (List Byte)) (k : Catchup) :
    deltaEncodeFrom .perChannel chs k = chs.flatMap fun ch => (deltaEncodeChannel ch Catchup.clear).1 := by
  induction chs generalizing k with
  | nil => rfl
  | cons ch chs ih => simp [deltaEncodeFrom, ih]

/-- Element `i` of the block of `l`'s element number `c`, all blocks being of one size. -/
theorem flatMap_getElem?_of_blocks {α β : Type} {f : α → List β} {m : Nat} {l : List α} (h : ∀ a ∈ l, (f a).length = m)
    {c i : Nat} {a : α} (hc : l[c]? = some a) (hi : i < m) : (l.flatMap f)[c * m + i]? = (f a)[i]? := by
  have byNumber : (List.range l.length).map (l.getD · a) = l :=
    List.ext_getElem (by simp) fun j _ hj => by simp [hj]
  have sizes : ∀ j, j < l.length → (f (l.getD j a)).length = m := fun j hj => h _ (by simp [hj])
  have block := flatMap_range_getElem? l.length m (fun j => f (l.getD j a)) sizes c i (List.getElem?_eq_some_iff.1 hc).1 hi
  rwa [← List.flatMap_map, byNumber, List.getD_eq_getElem?_getD, hc] at block

/-! ### The packet -/

section
variable {x : Session} {maxCap : Nat}

/-- In a legal session a used channel holds exactly sample_count samples (R23 (a)). -/
theorem Session.Inv.data_length (h : x.Inv maxCap) {c : Fin 16} (hc : c.val < x.channelCount.toNat) :
    x.buffers[c].data.length = x.sampleCount.toNat := by
  obtain ⟨length, count⟩ := h.used c hc
  rw [← length, count]

/-- The samples FINALIZE encodes for a used channel are all it holds (R141). -/
theorem Session.Inv.channels_getElem? (h : x.Inv maxCap) {c : Fin 16} (hc : c.val < x.channelCount.toNat) :
    x.channels[c.val]? = some x.buffers[c].data := by
  simp [Session.channels, hc, ← h.data_length hc]

theorem Session.Inv.channel_length (h : x.Inv maxCap) {ch : List Byte} (hch : ch ∈ x.channels) :
    ch.length = x.sampleCount.toNat := by
  simp only [Session.channels, List.mem_map] at hch
  obtain ⟨b, hb, rfl⟩ := hch
  obtain ⟨c, hc, rfl⟩ := (exists_mem_take_iff x.buffers x.channelCount.toNat (· = b)).1 ⟨b, hb, rfl⟩
  rw [← h.data_length hc, List.take_length]

/-- Byte `i` of channel `c`'s block in a PER_CHANNEL packet (R141, R162). -/
theorem Session.Inv.packet_perChannel_getElem? (h : x.Inv maxCap) {c : Fin 16} (hc : c.val < x.channelCount.toNat)
    {i : Nat} (hi : i < x.sampleCount.toNat) :
    (x.packet .perChannel)[14 + c.val * x.sampleCount.toNat + i]? =
      (deltaEncodeChannel x.buffers[c].data Catchup.clear).1[i]? := by
  have blocks : ∀ ch ∈ x.channels, (deltaEncodeChannel ch Catchup.clear).1.length = x.sampleCount.toNat :=
    fun ch hch => by rw [deltaEncodeChannel_length, h.channel_length hch]
  rw [Session.packet, Nat.add_assoc, List.getElem?_append_right (by simp), headerEncode_length, Nat.add_sub_cancel_left,
    deltaEncodeAll, deltaEncodeFrom_perChannel]
  exact flatMap_getElem?_of_blocks blocks (h.channels_getElem? hc) hi

end

/-- FINALIZE in ENDED puts the packet in OUT (R140). -/
theorem exec_finalize_out {s t : State} (ended : s.sess.state = .ended) (h : exec .finalize s = .next t) :
    t.out = s.sess.packet s.cfg.catchupScope := by
  have h : execFinalize s = .next t := h
  rw [execFinalize, ended] at h
  obtain rfl := (finish_eq_next_iff ..).1 h
  rfl

/-- Settles O38: channel `c`'s block stands at 14 + c·sc, and within a channel started clear the adjustment never fires. -/
theorem packetHoldsTheClippedDifferences : Obligations.PacketHoldsTheClippedDifferences := by
  rintro s t inv ended scope hexec c i hc hi _ rfl
  have length := inv.sess.data_length hc
  rw [exec_finalize_out ended hexec, scope, inv.sess.packet_perChannel_getElem? hc hi]
  constructor
  · rintro rfl
    exact deltaEncodeChannel_getElem?_zero _ _
  · intro pos
    obtain ⟨j, rfl⟩ := Nat.exists_eq_succ_of_ne_zero pos.ne'
    have hprev := List.getElem?_eq_getElem (l := s.sess.buffers[c].data) (i := j) (by omega)
    have hcur := List.getElem?_eq_getElem (l := s.sess.buffers[c].data) (i := j + 1) (by omega)
    exact ⟨_, _, hprev, hcur, deltaEncodeChannel_clear_getElem?_succ hprev hcur⟩

end Sys2Proof.Machine
end

section
/-! The decoder and the encoder (R82, R84, R86): what a word decodes to, case by case, as words and as bytes. -/

namespace Sys2Proof.Machine

/-! ### Words -/

/-- A word with a reserved bit set is no command (R84). -/
theorem decode_of_reserved {w : Word} (hrsv : rsvField w ≠ 0#24) : decode w = .error (.reservedBits (rsvField w)) :=
  if_pos hrsv

theorem mem_assignedOpcodes_of_toNat {b : Byte} {n : Nat} (h : b.toNat = n) (hn : BitVec.ofNat 8 n ∈ assignedOpcodes) :
    b ∈ assignedOpcodes := by
  subst h
  simpa using hn

/-- A word whose opcode is not in the map is no command (R84). -/
theorem decode_of_unassigned {w : Word} (hrsv : rsvField w = 0#24) (hopc : opcField w ∉ assignedOpcodes) :
    decode w = .error (.unassignedOpcode (opcField w)) := by
  rw [decode, if_neg (not_not_intro hrsv)]
  split
  case h_10 => rfl
  all_goals exact absurd (mem_assignedOpcodes_of_toNat ‹_› (by decide)) hopc

/-- A command's word decodes to it (R82). -/
theorem decode_encode : ∀ i, decode (encode i) = .ok i
  | .hdrEnc => decode_hdrEnc
  | .hdrDec => decode_hdrDec
  | .probe => decode_probe
  | .openSession => decode_openSession
  | .ingest => decode_ingest
  | .endStream => decode_endStream
  | .finalize => decode_finalize
  | .closeSession => decode_closeSession
  | .decodePacket => decode_decodePacket

theorem Instr.mem_all (i : Instr) : i ∈ Instr.all := by
  cases i <;> decide

/-- RSV and OPC are the whole word (R80). -/
theorem rsvField_append_opcField (w : Word) : rsvField w ++ opcField w = w :=
  (BitVec.extractLsb'_append_extractLsb'_eq_extractLsb' rfl).trans BitVec.extractLsb'_eq_self

/-- The assigned opcodes are those of the commands' words (R82). -/
theorem assignedOpcodes_eq : assignedOpcodes = Instr.all.map fun i => opcField (encode i) := by decide

theorem rsvField_encode (i : Instr) : rsvField (encode i) = 0#24 := by
  cases i <;> decide

/-- A legal word is some command's (R84, R86). -/
theorem exists_eq_encode {w : Word} (hrsv : rsvField w = 0#24) (hopc : opcField w ∈ assignedOpcodes) :
    ∃ i, w = encode i := by
  rw [assignedOpcodes_eq] at hopc
  obtain ⟨i, -, hi⟩ := List.mem_map.1 hopc
  exact ⟨i, by rw [← rsvField_append_opcField w, ← rsvField_append_opcField (encode i), hrsv, hi, rsvField_encode]⟩

/-- Exactly a command's own word decodes to it: an illegal word decodes to none, and a legal one is a command's (R86). -/
theorem decode_eq_ok_iff {w : Word} {i : Instr} : decode w = .ok i ↔ w = encode i := by
  constructor
  · intro h
    by_cases hrsv : rsvField w = 0#24
    · by_cases hopc : opcField w ∈ assignedOpcodes
      · obtain ⟨j, rfl⟩ := exists_eq_encode hrsv hopc
        rw [decode_encode] at h
        cases h
        rfl
      · rw [decode_of_unassigned hrsv hopc] at h
        cases h
    · rw [decode_of_reserved hrsv] at h
      cases h
  · rintro rfl
    exact decode_encode i

/-- The rows of the opcode map pair each command with its word (R82). -/
theorem mem_opcodeMap_iff {w : Word} {i : Instr} : (w, i) ∈ Instr.all.map (fun j => (encode j, j)) ↔ w = encode i := by
  simp [Instr.mem_all, eq_comm]

/-! ### Bytes -/

/-- The bytes of a word decode to what the word does, and the bytes after them are left (R51, R86). -/
theorem decodeBytes_le32_append (w : Word) (rest : List Byte) :
    decodeBytes (le32 w ++ rest) = (decode w).map (·, rest) := by
  simp only [le32, List.cons_append, List.nil_append, decodeBytes, rdLe32_le32]
  cases decode w <;> rfl

theorem decodeBytes_le32_append_eq_ok_iff {w : Word} {rest : List Byte} {i : Instr} :
    decodeBytes (le32 w ++ rest) = .ok (i, rest) ↔ decode w = .ok i := by
  rw [decodeBytes_le32_append]
  cases decode w <;> simp [Except.map]

/-! ### The statements -/

/-- Settles O10: as bytes by reading back the word laid out, as words by `decode_eq_ok_iff`. -/
theorem decodeAndEncodeAgree : Obligations.DecodeAndEncodeAgree :=
  ⟨fun i _ => decodeBytes_le32_append_eq_ok_iff.2 (decode_encode i), fun _ _ _ => decodeBytes_le32_append_eq_ok_iff,
    fun _ _ => decode_eq_ok_iff.1⟩

/-- Settles O8: the nine rows are the commands with their words. -/
theorem decodeIsTheOpcodeMap : Obligations.DecodeIsTheOpcodeMap :=
  fun _ _ => decode_eq_ok_iff.trans mem_opcodeMap_iff.symm

/-- Settles O9: two commands' words, and words illegal by a reserved bit or by their opcode. -/
theorem someWordsDecodeAsTheTableSays : Obligations.SomeWordsDecodeAsTheTableSays :=
  ⟨decode_ingest, decode_decodePacket, decode_of_unassigned (by decide) (by decide), decode_of_reserved (by decide),
    decode_of_unassigned (by decide) (by decide), decode_of_unassigned (by decide) (by decide),
    decode_of_reserved (by decide)⟩

end Sys2Proof.Machine
end

section
/-! The block's turn (R80, R84): which command its step performs, and what it does with an illegal word. -/

namespace Sys2Proof.Machine

section
variable {s : State}

/-- When the block has its turn: BUSY = 1, and the host waits or has nothing to do (log entry 5). -/
theorem blockTurn_iff :
    s.blockTurn = true ↔ s.busy = true ∧ (s.hostQueue = [] ∨ ∃ rest, s.hostQueue = .await :: rest) := by
  rw [State.blockTurn, Bool.and_eq_true]
  refine and_congr_right fun _ => ?_
  cases s.hostQueue with
  | nil => simp
  | cons a rest => cases a <;> simp

theorem step_of_decode_ok {i : Instr} (turn : s.blockTurn = true) (h : decode s.cmd = .ok i) : step s = exec i s := by
  rw [step_of_blockTurn s turn, blockStep, State.fetch, h]

theorem step_of_decode_error {e : DecodeError} (turn : s.blockTurn = true) (h : decode s.cmd = .error e) :
    step s = s.illegal := by
  rw [step_of_blockTurn s turn, blockStep, State.fetch, h]

end

/-- Settles O5: the dispatch rule, and when the block has its turn. -/
theorem stepRunsTheDecodedCommand : Obligations.StepRunsTheDecodedCommand :=
  ⟨fun _ _ => step_of_decode_ok, fun _ => blockTurn_iff⟩

/-- Settles O6: the write reaches CMD, and after it the block has its turn, the host waiting. -/
theorem cmdWriteStartsTheCommand : Obligations.CmdWriteStartsTheCommand := by
  intro s w rest hbusy hq
  refine ⟨_, step_write hbusy hq rfl, rfl, fun i hi => step_of_decode_ok ?_ hi⟩
  exact blockTurn_iff.2 ⟨rfl, .inr ⟨rest, rfl⟩⟩

/-- Settles O7: an illegal word decodes to an error, by a reserved bit or by its opcode. -/
theorem illegalWordReportsInvalidCommand : Obligations.IllegalWordReportsInvalidCommand := by
  intro s turn illegal
  by_cases hrsv : rsvField s.cmd = 0#24
  · have hopc : opcField s.cmd ∉ assignedOpcodes := illegal.resolve_left (not_not_intro hrsv)
    exact step_of_decode_error turn (decode_of_unassigned hrsv hopc)
  · exact step_of_decode_error turn (decode_of_reserved hrsv)

end Sys2Proof.Machine
end

section
/-! The fields of STATUS (R26, R90). -/

namespace Sys2Proof.Machine

section
variable (busy : Bool) (state : BitVec 3) (code : Byte)

theorem statusFields_code : (statusFields busy state code).extractLsb' 0 8 = code :=
  BitVec.extractLsb'_append_eq_right

theorem statusFields_state : (statusFields busy state code).extractLsb' 8 3 = state :=
  (BitVec.extractLsb'_append_eq_of_le (by decide)).trans BitVec.extractLsb'_append_eq_right

theorem statusFields_reserved : (statusFields busy state code).extractLsb' 11 20 = 0#20 :=
  calc (statusFields busy state code).extractLsb' 11 20
    _ = (BitVec.ofBool busy ++ 0#20 ++ state).extractLsb' 3 20 := BitVec.extractLsb'_append_eq_of_le (by decide)
    _ = (BitVec.ofBool busy ++ 0#20).extractLsb' 0 20 := BitVec.extractLsb'_append_eq_of_le (by decide)
    _ = 0#20 := BitVec.extractLsb'_append_eq_right

theorem statusFields_busy : (statusFields busy state code).getLsbD 31 = busy :=
  calc (statusFields busy state code).getLsbD 31
    _ = (BitVec.ofBool busy ++ 0#20 ++ state).getLsbD 23 := BitVec.getLsbD_append
    _ = (BitVec.ofBool busy ++ 0#20).getLsbD 20 := BitVec.getLsbD_append
    _ = (BitVec.ofBool busy).getLsbD 0 := BitVec.getLsbD_append
    _ = busy := by simp

end

/-- Settles O49: each field of STATUS is the one put there, with the numbers of R90 and R26. -/
theorem statusShowsCodeStateAndBusy : Obligations.StatusShowsCodeStateAndBusy := by
  intro s
  refine ⟨(statusFields_code ..).trans ?code, (statusFields_state ..).trans ?state, statusFields_reserved ..,
    statusFields_busy ..⟩
  case code => cases s.code <;> rfl
  case state => cases s.sess.state <;> rfl

end Sys2Proof.Machine
end

section
/-! Supplying IN and sizing it: the whole next state of each step (R91). -/

namespace Sys2Proof.Machine

section
variable {s : State} {rest : List HostAction}

/-- A step between commands that changes IN to `m` changes nothing else but the epoch. -/
theorem step_supply_eq {a : HostAction} {m : Memory} (hbusy : s.busy = false) (hq : s.hostQueue = a :: rest)
    (ha : a ≠ .await) (supply : hostAct { s with hostQueue := rest } a = hostSupply { s with hostQueue := rest } m) :
    step s = .next { s with hostQueue := rest, inMem := m, inEpoch := s.inEpoch + 1 } := by
  rw [step_of_host_action s a rest hq ha, supply, hostSupply_of_not_busy (s := { s with hostQueue := rest }) hbusy]

/-- Sizing IN between commands stores its extent in IN_LEN. -/
theorem step_sizeIn (hbusy : s.busy = false) (hq : s.hostQueue = .sizeIn :: rest) :
    step s = .next { s with
      hostQueue := rest, inLen := lengthWord s.inMem.extent, inEpoch := s.inEpoch + 1 } := by
  rw [step_of_host_action s _ rest hq nofun, hostAct_sizeIn]
  exact hostWrite_of_not_busy (s := { s with hostQueue := rest }) hbusy (r := .inLen) rfl _

end

/-- A length register shows a count below 2^32 (R29). -/
theorem lengthWord_toNat {n : Nat} (h : n < 2 ^ 32) : (lengthWord n).toNat = n := by
  rw [lengthWord, if_pos h, BitVec.toNat_ofNat, Nat.mod_eq_of_lt h]

/-- Settles O59: the supply lays the bytes out in IN's memory, and their number is its extent. -/
theorem sizingInStoresItsLength : Obligations.SizingInStoresItsLength := by
  intro s bytes load rest hload hbusy short hq
  have supplied : step s = .next { s with
      hostQueue := .sizeIn :: rest, inMem := Memory.ofBytes bytes, inEpoch := s.inEpoch + 1 } := by
    obtain rfl | ⟨rfl, rfl⟩ := hload <;> exact step_supply_eq hbusy hq nofun rfl
  refine ⟨_, _, supplied, step_sizeIn hbusy rfl, ?length, fun a b h => ?reads, rfl, rfl, rfl, rfl⟩
  case length => exact (lengthWord_toNat (by simpa using short)).trans (Memory.extent_ofBytes bytes)
  case reads => exact inByte_of_read _ a b (Memory.read_ofBytes bytes a b h)

end Sys2Proof.Machine
end

section
/-! HeaderEncode and HeaderDecode are inverse (R112, R113, R117), field by field. -/

namespace Sys2Proof.Machine

/-! ### Fields -/

/-- The two bytes of a half word, read back (R11, R50). -/
theorem rdLe16_le16 (x : Half) : rdLe16 (le16 x) 0 = x := by
  rw [rdLe16_eq_append]
  exact (BitVec.extractLsb'_append_extractLsb'_eq_extractLsb' rfl).trans BitVec.extractLsb'_eq_self

/-- The bytes of a word given by its bytes, least significant first (R50). -/
theorem le32_append (b3 b2 b1 b0 : Byte) : le32 (b3 ++ b2 ++ b1 ++ b0 : BitVec 32) = [b0, b1, b2, b3] := by
  have h1 : (b3 ++ b2 ++ b1 ++ b0).extractLsb' 8 8 = b1 := by
    rw [BitVec.extractLsb'_append_eq_of_le (by decide)]
    exact BitVec.extractLsb'_append_eq_right
  have h2 : (b3 ++ b2 ++ b1 ++ b0).extractLsb' 16 8 = b2 := by
    iterate 2 rw [BitVec.extractLsb'_append_eq_of_le (by decide)]
    exact BitVec.extractLsb'_append_eq_right
  have h3 : (b3 ++ b2 ++ b1 ++ b0).extractLsb' 24 8 = b3 := by
    iterate 3 rw [BitVec.extractLsb'_append_eq_of_le (by decide)]
    exact BitVec.extractLsb'_eq_self
  simp only [le32, wordByte, List.cons.injEq, and_true]
  exact ⟨BitVec.extractLsb'_append_eq_right, h1, h2, h3⟩

/-- The bytes of a half word given by its bytes. -/
theorem le16_append (hi lo : Byte) : le16 (hi ++ lo : BitVec 16) = [lo, hi] := by
  simp only [le16, List.cons.injEq, and_true]
  exact ⟨BitVec.extractLsb'_append_eq_right, BitVec.extractLsb'_append_eq_left⟩

/-- The bytes of the low half of a word are the word's two lowest (R114's `ARG1[15:0]`). -/
theorem le16_extractLsb' (w : Word) : le16 (w.extractLsb' 0 16) = [w.extractLsb' 0 8, w.extractLsb' 8 8] := by
  simp [le16, BitVec.extractLsb'_extractLsb'_of_le]

/-- A zero-extended half word, as an append (R62, R115). -/
theorem setWidth_append_bytes (hi lo : Byte) : (hi ++ lo : Half).setWidth 32 = (0#16 ++ hi ++ lo : BitVec 32) := by
  have h1 := hi.isLt
  have h0 := lo.isLt
  apply BitVec.eq_of_toNat_eq
  simp only [BitVec.toNat_setWidth, toNat_append_add, BitVec.toNat_ofNat]
  omega

/-- The first bytes of a sequence, one by one. -/
theorem take_eq_map_byteOf {bs : List Byte} {n : Nat} (h : n ≤ bs.length) :
    bs.take n = (List.range n).map (byteOf bs) := by
  refine List.ext_getElem (by simpa using h) fun i hi _ => ?_
  have hi : i < bs.length := (List.length_take_le' n bs).trans_lt' hi
  simp [byteOf, hi]

/-! ### Headers -/

/-- What HeaderDecode reads where it succeeds (R113). -/
theorem headerDecode_eq_some {bs : List Byte} (long : 14 ≤ bs.length) (hmagic : bs.take 4 = magic) :
    headerDecode bs = some { rate := rdLe32 bs 4, channels := rdLe16 bs 8, count := rdLe32 bs 10 } := by
  simp [headerDecode, long, hmagic]

/-- Each field stands in the encoding at the offset it is read from (R110). -/
theorem headerDecode_headerEncode (rate : Word) (channels : Half) (count : Word) :
    headerDecode (headerEncode rate channels count) = some { rate, channels, count } := by
  have hrate : rdLe32 (headerEncode rate channels count) 4 = rate := rdLe32_le32 rate
  have hchannels : rdLe16 (headerEncode rate channels count) 8 = channels := rdLe16_le16 channels
  have hcount : rdLe32 (headerEncode rate channels count) 10 = count := rdLe32_le32 count
  rw [headerDecode_eq_some (headerEncode_length ..).ge rfl, hrate, hchannels, hcount]

/-- Encoding the fields where the header has them gives back the header's bytes. -/
theorem headerEncode_rdLe {bs : List Byte} (long : 14 ≤ bs.length) (hmagic : bs.take 4 = magic) :
    headerEncode (rdLe32 bs 4) (rdLe16 bs 8) (rdLe32 bs 10) = bs.take 14 := by
  simp only [headerEncode, ← hmagic, rdLe32_eq_append, rdLe16_eq_append, le32_append, le16_append]
  rw [take_eq_map_byteOf long, take_eq_map_byteOf (Nat.le_trans (by decide) long)]
  rfl

/-- Settles O26: each field is read back where it was written, and written back where it was read. -/
theorem headerCodecRoundTrips : Obligations.HeaderCodecRoundTrips :=
  ⟨headerDecode_headerEncode, fun _ long hmagic =>
    ⟨_, headerDecode_eq_some long hmagic, headerEncode_rdLe long hmagic⟩⟩

end Sys2Proof.Machine
end

section
/-! HDR_ENC, HDR_DEC and PROBE: the whole next state of each (R114, R115, R116), and short inputs (R118). -/

namespace Sys2Proof.Machine

section
variable {s : State}

theorem exec_hdrEnc_of_channelsArgHigh_eq_zero (h : s.channelsArgHigh = 0#16) :
    exec .hdrEnc s = s.finish (headerEncode s.rateArg s.channelsArg s.countArg) := if_neg (not_not.2 h)

theorem not_inHoldsHeader_of_short (short : s.inLen.toNat < 14) : ¬ s.inHoldsHeader :=
  fun h => Nat.not_le.2 short h.1

theorem exec_hdrDec_of_inHoldsHeader (h : s.inHoldsHeader) :
    exec .hdrDec s = (s.withResults s.inRate (s.inChannels.setWidth 32) s.inCount).finish [] := by
  simp only [exec, execHdrDec, inHeader_of_holds s h]

/-- Without a header in IN, HDR_DEC aborts (R115). -/
theorem exec_hdrDec_of_not_inHoldsHeader (h : ¬ s.inHoldsHeader) : abortsWith .hdrDec s .formatMismatch := by
  simp only [abortsWith, exec, execHdrDec, inHeader_of_not_holds s h, raise_eq]

/-- Without a header in IN, DECODE aborts (R181). -/
theorem exec_decodePacket_of_not_inHoldsHeader (h : ¬ s.inHoldsHeader) :
    abortsWith .decodePacket s .formatMismatch := by
  simp only [abortsWith, exec, execDecode, inHeader_of_not_holds s h, raise_eq]

theorem exec_probe_of_recognised (long : 4 ≤ s.inLen.toNat) (hmagic : s.inStartsWithMagic) :
    exec .probe s = (s.withRes0 s.cfg.confMax).finish [] := by
  rw [exec, execProbe, if_pos ((inRecognised_iff s).2 ⟨long, hmagic⟩)]

theorem exec_probe_of_not_recognised (h : s.inLen.toNat < 4 ∨ ¬ s.inStartsWithMagic) :
    exec .probe s = (s.withRes0 0#32).finish [] := by
  rw [exec, execProbe, if_neg]
  rw [inRecognised_iff]
  rintro ⟨long, hmagic⟩
  exact h.elim (Nat.not_lt.2 long) (· hmagic)

end

/-- Settles O23: the results are the header's fields, and either failure leaves IN without a header. -/
theorem hdrDecReadsTheHeader : Obligations.HdrDecReadsTheHeader := by
  refine fun s => ⟨fun short => ?short, fun hmagic => ?wrongMagic, fun long hmagic => ?header⟩
  case short => exact exec_hdrDec_of_not_inHoldsHeader (not_inHoldsHeader_of_short short)
  case wrongMagic => exact exec_hdrDec_of_not_inHoldsHeader fun h => hmagic h.2
  case header =>
    rw [exec_hdrDec_of_inHoldsHeader ⟨long, hmagic⟩, State.inChannels, setWidth_append_bytes]
    rfl

/-- Settles O24: recognition needs both the four bytes and the magic. -/
theorem probeReportsConfidence : Obligations.ProbeReportsConfidence :=
  fun _ => ⟨exec_probe_of_recognised, exec_probe_of_not_recognised⟩

/-- Settles O22: the bytes are HeaderEncode's, and fourteen of them show in OUT_LEN. -/
theorem hdrEncWritesTheHeader : Obligations.HdrEncWritesTheHeader := by
  refine fun s => ⟨fun high => ?refused, fun high => ⟨_, exec_hdrEnc_of_channelsArgHigh_eq_zero high, rfl, ?bytes⟩⟩
  case refused => exact if_pos high
  case bytes =>
    rw [headerEncode, le16_extractLsb']
    rfl

/-- Settles O25: four bytes are enough for recognition, and thirteen are too few for a header. -/
theorem shortInputIsRecognisedButNotParsed : Obligations.ShortInputIsRecognisedButNotParsed := by
  intro s long short hmagic
  have noHeader : ¬ s.inHoldsHeader := not_inHoldsHeader_of_short (Nat.lt_succ_of_le short)
  exact ⟨exec_probe_of_recognised long hmagic, exec_hdrDec_of_not_inHoldsHeader noHeader,
    exec_decodePacket_of_not_inHoldsHeader noHeader⟩

end Sys2Proof.Machine
end

section
/-! Grow (R135): the least sufficient doubling is the only one, so the bounded loop meets the spec's recursion. -/

namespace Sys2Proof.Machine

/-- A sufficient doubling below which none is sufficient is Grow's result. -/
theorem grow_eq_of_least {cap need m : Nat} (hcap : 0 < cap) (enough : need ≤ cap * 2 ^ m)
    (least : ∀ j, j < m → cap * 2 ^ j < need) : grow cap need = cap * 2 ^ m := by
  obtain ⟨n, hn, enough', least'⟩ := grow_spec hcap need
  obtain below | rfl | above := Nat.lt_trichotomy n m
  · exact absurd enough' (Nat.not_le.2 (least n below))
  · exact hn
  · exact absurd enough (Nat.not_le.2 (least' m above))

theorem grow_of_le {cap need : Nat} (hcap : 0 < cap) (h : need ≤ cap) : grow cap need = cap := by
  simpa using grow_eq_of_least (m := 0) hcap (by simpa using h) nofun

theorem grow_of_lt {cap need : Nat} (hcap : 0 < cap) (h : cap < need) : grow cap need = grow (2 * cap) need := by
  obtain ⟨m, hm, enough, least⟩ := grow_spec (Nat.mul_pos two_pos hcap) need
  have shift (j : Nat) : cap * 2 ^ (j + 1) = 2 * cap * 2 ^ j := by ring
  rw [hm, ← shift]
  refine grow_eq_of_least hcap (by rwa [shift]) fun j hj => ?_
  cases j with
  | zero => simpa using h
  | succ j => rw [shift]; exact least j (by omega)

/-- Settles O34: both clauses of the recursion compare least sufficient doublings. -/
theorem growDoublesUntilSufficient : Obligations.GrowDoublesUntilSufficient :=
  fun _ need hcap => ⟨grow_of_le hcap, grow_of_lt hcap, grow_spec hcap need⟩

end Sys2Proof.Machine
end

section
/-! The session commands, case by case (R131, R132, R136, R137, R140, R142): what `exec` is in each session state. -/

namespace Sys2Proof.Machine

section
variable {s : State}

/-! ### OPEN -/

theorem exec_openSession_of_not_idle (h : s.sess.state ≠ .idle) : abortsWith .openSession s .stateError := if_pos h

theorem exec_openSession_of_channelsArgHigh_ne_zero (idle : s.sess.state = .idle) (high : s.channelsArgHigh ≠ 0#16) :
    abortsWith .openSession s .invalidArgument :=
  (if_neg (not_not.2 idle)).trans (if_pos high)

theorem exec_openSession_of_channelsArg_out_of_range (idle : s.sess.state = .idle) (high : s.channelsArgHigh = 0#16)
    (range : s.channelsArg.toNat < 1 ∨ 16 < s.channelsArg.toNat) : abortsWith .openSession s .invalidArgument :=
  (if_neg (not_not.2 idle)).trans <| (if_neg (not_not.2 high)).trans (if_pos range)

theorem exec_openSession_of_channelsArg_in_range (idle : s.sess.state = .idle) (high : s.channelsArgHigh = 0#16)
    (range : ¬ (s.channelsArg.toNat < 1 ∨ 16 < s.channelsArg.toNat)) :
    exec .openSession s = (s.withSession (Session.create s.rateArg s.channelsArg)).finish [] :=
  (if_neg (not_not.2 idle)).trans <| (if_neg (not_not.2 high)).trans (if_neg range)

/-- In IDLE, OPEN has two ends. -/
theorem exec_openSession_of_idle (idle : s.sess.state = .idle) :
    abortsWith .openSession s .invalidArgument ∨
      exec .openSession s = (s.withSession (Session.create s.rateArg s.channelsArg)).finish [] := by
  by_cases high : s.channelsArgHigh = 0#16
  · by_cases range : s.channelsArg.toNat < 1 ∨ 16 < s.channelsArg.toNat
    · exact .inl (exec_openSession_of_channelsArg_out_of_range idle high range)
    · exact .inr (exec_openSession_of_channelsArg_in_range idle high range)
  · exact .inl (exec_openSession_of_channelsArgHigh_ne_zero idle high)

/-! ### INGEST -/

theorem exec_ingest_of_failed (h : s.sess.state = .failed) : abortsWith .ingest s .allocationFailure := by
  simp only [abortsWith, exec, execIngest, h, raise_eq]

theorem exec_ingest_of_idle_or_ended_or_done (h : s.sess.state = .idle ∨ s.sess.state = .ended ∨ s.sess.state = .done) :
    abortsWith .ingest s .stateError := by
  obtain h | h | h := h <;> simp only [abortsWith, exec, execIngest, h, raise_eq]

/-- Outside OPEN, INGEST aborts. -/
theorem exec_ingest_of_not_opened (h : s.sess.state ≠ .opened) : ∃ e, e ≠ .ok ∧ abortsWith .ingest s e := by
  cases hst : s.sess.state with
  | opened => exact absurd hst h
  | failed => exact ⟨.allocationFailure, nofun, exec_ingest_of_failed hst⟩
  | idle | ended | done => exact ⟨.stateError, nofun, exec_ingest_of_idle_or_ended_or_done (by simp [hst])⟩

/-- The frame's length is right when IN holds `k` samples of each channel (R132). -/
theorem frameFits_iff : s.frameFits = true ↔ s.inLen.toNat = s.sess.channelCount.toNat * s.arg0.toNat := beq_iff_eq

section
variable (opened : s.sess.state = .opened)
include opened

theorem exec_ingest_of_not_frameFits (h : s.frameFits = false) : abortsWith .ingest s .invalidArgument := by
  simp only [abortsWith, exec, execIngest, opened, h, if_true, raise_eq]

theorem exec_ingest_of_growthFails (fits : s.frameFits = true) (h : s.sess.growthFails s.cfg.maxCap s.frameArg = true) :
    exec .ingest s = (s.withSessState .failed).raise .allocationFailure := by
  simp only [exec, execIngest, opened, fits, h, Bool.true_eq_false, if_true, if_false]

theorem exec_ingest_of_not_growthFails (fits : s.frameFits = true)
    (h : s.sess.growthFails s.cfg.maxCap s.frameArg = false) :
    exec .ingest s = (s.withSession (s.sess.appendFrame s.framePart s.frameArg)).finish [] := by
  simp only [exec, execIngest, opened, fits, h, Bool.true_eq_false, Bool.false_eq_true, if_false]

/-- In OPEN, INGEST has three ends. -/
theorem exec_ingest_of_opened :
    abortsWith .ingest s .invalidArgument ∨
      exec .ingest s = (s.withSessState .failed).raise .allocationFailure ∨
      exec .ingest s = (s.withSession (s.sess.appendFrame s.framePart s.frameArg)).finish [] := by
  cases fits : s.frameFits with
  | false => exact .inl (exec_ingest_of_not_frameFits opened fits)
  | true =>
    cases grows : s.sess.growthFails s.cfg.maxCap s.frameArg with
    | true => exact .inr (.inl (exec_ingest_of_growthFails opened fits grows))
    | false => exact .inr (.inr (exec_ingest_of_not_growthFails opened fits grows))

end

/-! ### END -/

theorem exec_endStream_of_idle (h : s.sess.state = .idle) : abortsWith .endStream s .stateError := by
  simp only [abortsWith, exec, execEnd, h, raise_eq]

theorem exec_endStream_of_failed (h : s.sess.state = .failed) : abortsWith .endStream s .allocationFailure := by
  simp only [abortsWith, exec, execEnd, h, raise_eq]

theorem exec_endStream_of_opened (h : s.sess.state = .opened) : exec .endStream s = (s.withSessState .ended).finish [] := by
  simp only [exec, execEnd, h]

theorem exec_endStream_of_ended_or_done (h : s.sess.state = .ended ∨ s.sess.state = .done) :
    exec .endStream s = s.finish [] := by
  obtain h | h := h <;> simp only [exec, execEnd, h]

/-! ### FINALIZE and CLOSE -/

theorem exec_finalize_of_idle (h : s.sess.state = .idle) : abortsWith .finalize s .stateError := by
  simp only [abortsWith, exec, execFinalize, h, raise_eq]

theorem exec_finalize_of_opened (h : s.sess.state = .opened) : abortsWith .finalize s .notReady := by
  simp only [abortsWith, exec, execFinalize, h, raise_eq]

theorem exec_finalize_of_ended (h : s.sess.state = .ended) :
    exec .finalize s = (s.withSessState .done).finish (s.sess.packet s.cfg.catchupScope) := by
  simp only [exec, execFinalize, h]

theorem exec_finalize_of_done (h : s.sess.state = .done) : abortsWith .finalize s .exhaustedStream := by
  simp only [abortsWith, exec, execFinalize, h, raise_eq]

theorem exec_finalize_of_failed (h : s.sess.state = .failed) : abortsWith .finalize s .allocationFailure := by
  simp only [abortsWith, exec, execFinalize, h, raise_eq]

theorem exec_closeSession (s : State) : exec .closeSession s = (s.withSession Session.none).finish [] := rfl

end

/-! ### The statements -/

/-- Settles O30: the state is checked first, the length in OPEN only. -/
theorem ingestChecksStateThenLength : Obligations.IngestChecksStateThenLength := by
  refine fun s => ⟨exec_ingest_of_idle_or_ended_or_done, exec_ingest_of_failed, fun opened length => ?_⟩
  exact exec_ingest_of_not_frameFits opened (Bool.eq_false_iff.2 fun fits => length (frameFits_iff.1 fits))

/-- Settles O32: FAILED's row of each session command. -/
theorem failedSessionAnswersOnlyToClose : Obligations.FailedSessionAnswersOnlyToClose :=
  fun s failed => ⟨exec_ingest_of_failed failed, exec_endStream_of_failed failed, exec_finalize_of_failed failed,
    exec_openSession_of_not_idle (by simp [failed]), _, exec_closeSession s, rfl⟩

/-- Settles O35: END's column of the state machine. -/
theorem endSignalsEndOfStream : Obligations.EndSignalsEndOfStream :=
  fun _ => ⟨exec_endStream_of_idle, exec_endStream_of_failed, exec_endStream_of_opened, exec_endStream_of_ended_or_done⟩

/-- Settles O36: FINALIZE's column of the state machine, ENDED aside. -/
theorem finalizeReportsItsErrors : Obligations.FinalizeReportsItsErrors :=
  fun _ => ⟨exec_finalize_of_idle, exec_finalize_of_opened, exec_finalize_of_done, exec_finalize_of_failed⟩

/-- Settles O39: the record CLOSE leaves is the cleared one. -/
theorem closeClearsTheSession : Obligations.CloseClearsTheSession :=
  fun s => ⟨Session.none, exec_closeSession s, rfl, rfl, rfl, rfl, Session.none_buffers⟩

/-- Settles O28: the checks in order, and the record OPEN creates. -/
theorem openCreatesTheSession : Obligations.OpenCreatesTheSession := by
  refine fun s => ⟨exec_openSession_of_not_idle, exec_openSession_of_channelsArgHigh_ne_zero, ?_⟩
  rintro idle high _ rfl
  refine ⟨exec_openSession_of_channelsArg_out_of_range idle high, fun one_le le_max => ?created⟩
  case created =>
    exact ⟨Session.create s.rateArg s.channelsArg,
      exec_openSession_of_channelsArg_in_range idle high
        (not_or.2 ⟨Nat.not_lt.2 one_le, Nat.not_lt.2 le_max⟩), rfl, rfl, rfl, rfl, by simp [Session.create]⟩

/-- Settles O29: no used channel's growth fails, so the frame is appended to each. -/
theorem ingestAppendsThePlanarFrame : Obligations.IngestAppendsThePlanarFrame := by
  rintro s _ _ rfl rfl opened length room
  have grows : s.sess.growthFails s.cfg.maxCap s.frameArg = false := by
    refine Bool.eq_false_iff.2 fun fails => ?_
    obtain ⟨c, hc, exceeds⟩ := (growthFails_iff ..).1 fails
    exact Nat.not_le.2 exceeds (room c hc)
  refine ⟨s.sess.appendFrame s.framePart s.frameArg,
    exec_ingest_of_not_growthFails opened (frameFits_iff.2 length) grows, opened, rfl, rfl, ?count, ?used, ?unused⟩
  case count => simp [Session.appendFrame]
  case used =>
    intro c hc
    rw [appendFrame_used_buffer hc]
    exact ⟨rfl, rfl, rfl⟩
  case unused =>
    intro c hc
    rw [appendFrame_buffer, if_neg (Nat.not_lt.2 hc)]

/-- Settles O31: the failure is the answer when growth fails, and no answer with code OK when it does not. -/
theorem growthBeyondTheLimitFailsTheSession : Obligations.GrowthBeyondTheLimitFailsTheSession := by
  rintro s _ rfl opened - length
  have fits := frameFits_iff.2 length
  rw [← growthFails_iff]
  refine ⟨exec_ingest_of_growthFails opened fits, fun answer => ?_⟩
  by_contra grows
  rw [exec_ingest_of_not_growthFails opened fits (Bool.eq_false_iff.2 grows), finish_eq_next_iff] at answer
  simpa using congrArg State.code answer

end Sys2Proof.Machine
end

section
/-! The packet FINALIZE produces (R140, R141): its channels by number, and its length. -/

namespace Sys2Proof.Machine

/-- The first `n` channel numbers are those below `n`. -/
theorem finRange_take_eq_filter (m n : Nat) : (List.finRange m).take n = (List.finRange m).filter (·.val < n) := by
  induction m generalizing n with
  | zero => simp
  | succ m ih =>
    cases n with
    | zero => simp
    | succ n => simp [List.finRange_succ, List.filter_map, Function.comp_def, ← List.map_take, ih]

/-- The channels of a session, by channel number (R141). -/
theorem Session.channels_eq_filterMap (x : Session) :
    x.channels = (List.finRange 16).filterMap fun c =>
      if c.val < x.channelCount.toNat then some (x.buffers[c].data.take x.sampleCount.toNat) else .none := by
  have numbered : x.buffers.toList = (List.finRange 16).map fun c => x.buffers[c] :=
    List.ext_getElem (by simp) (by simp)
  rw [Session.channels, numbered, ← List.map_take, finRange_take_eq_filter, List.map_map,
    ← List.filterMap_eq_filter, ← List.filterMap_eq_map, List.filterMap_filterMap]
  refine List.filterMap_congr fun c _ => ?_
  by_cases hc : c.val < x.channelCount.toNat <;> simp [hc]

/-- A legal session has as many channels as its channel count says (R23 (c)). -/
theorem Session.Inv.channels_length {x : Session} {maxCap : Nat} (h : x.Inv maxCap) (hx : x.state ≠ .idle) :
    x.channels.length = x.channelCount.toNat := by
  simp [Session.channels, (h.channels hx).2]

/-- A packet of a legal session is a header and one block of `sc` bytes for each channel (R141). -/
theorem Session.Inv.packet_length {x : Session} {maxCap : Nat} (h : x.Inv maxCap) (hx : x.state ≠ .idle)
    (scope : CatchupScope) : (x.packet scope).length = 14 + x.channelCount.toNat * x.sampleCount.toNat := by
  have sizes : x.channels.map List.length = List.replicate x.channelCount.toNat x.sampleCount.toNat := by
    rw [← h.channels_length hx, ← List.map_const']
    exact List.map_congr_left fun _ => h.channel_length
  rw [Session.packet, List.length_append, headerEncode_length, deltaEncodeAll, deltaEncodeFrom_length, sizes,
    List.sum_replicate_nat]

/-- Settles O37: OUT is the packet, a header of fourteen bytes and then the encoded channels. -/
theorem finalizeProducesThePacket : Obligations.FinalizeProducesThePacket := by
  intro s ended
  refine ⟨s.sess.packet s.cfg.catchupScope, exec_finalize_of_ended ended, ?header, ?body, fun inv => ?length⟩
  case header => exact List.take_left' (headerEncode_length ..)
  case body =>
    rw [← Session.channels_eq_filterMap]
    exact List.drop_left' (headerEncode_length ..)
  case length => exact inv.sess.packet_length (by simp [ended]) _

end Sys2Proof.Machine
end

section
/-! Rules over all commands: the state machine of R130, what touches the session and what does not (R135, R136, R144, R185). -/

namespace Sys2Proof.Machine

/-! ### The state machine -/

section
variable {i : Instr} {s t u : State} {e : StatusCode} {o : List Byte} {x : SessState}

theorem abortsWith.next_eq (ha : abortsWith i s e) (h : exec i s = .next t) : t = s.retire e [] :=
  (raise_eq_next_iff ..).1 (ha.symm.trans h)

/-- The cell of a command that retires with code `e`, by `raise` or `finish`, after the updates that lead to `u`. -/
theorem cell_of_retire (ha : exec i s = .next (u.retire e o)) (h : exec i s = .next t) (hx : u.sess.state = x) :
    (t.sess.state, t.code) = (x, e) := by
  rw [ha] at h
  cases h
  rw [State.retire_sess, State.retire_code, hx]

/-- HDR_ENC, HDR_DEC, PROBE and DECODE leave the session as it is (R130). -/
theorem CommandEffect.keeps_session_of_codec (effect : CommandEffect s i t)
    (hi : i ∈ [Instr.hdrEnc, .hdrDec, .probe, .decodePacket]) : t.sess = s.sess := by
  cases effect with
  | aborts | outputs | results | confidence => rfl
  | opens | appends | fails | ends | finalizes | closes => simp at hi

end

/-- Settles O16: the cells one by one, from what `exec` is in each. -/
theorem sessionCommandsFollowTheStateMachine : Obligations.SessionCommandsFollowTheStateMachine := by
  rintro i s t h _ rfl
  cases i with
  | openSession =>
    cases hst : s.sess.state with
    | idle =>
      obtain ha | ha := exec_openSession_of_idle hst
      · exact .inr (cell_of_retire ha h hst)
      · exact .inl (cell_of_retire ha h rfl)
    | opened | ended | done | failed => exact cell_of_retire (exec_openSession_of_not_idle (by simp [hst])) h hst
  | ingest =>
    cases hst : s.sess.state with
    | opened =>
      obtain ha | ha | ha := exec_ingest_of_opened hst
      · exact .inr (.inl (cell_of_retire ha h hst))
      · exact .inr (.inr (cell_of_retire ha h rfl))
      · exact .inl (cell_of_retire ha h hst)
    | failed => exact cell_of_retire (exec_ingest_of_failed hst) h hst
    | idle | ended | done => exact cell_of_retire (exec_ingest_of_idle_or_ended_or_done (by simp [hst])) h hst
  | endStream =>
    cases hst : s.sess.state with
    | idle => exact cell_of_retire (exec_endStream_of_idle hst) h hst
    | opened => exact cell_of_retire (exec_endStream_of_opened hst) h rfl
    | ended | done => exact cell_of_retire (exec_endStream_of_ended_or_done (by simp [hst])) h hst
    | failed => exact cell_of_retire (exec_endStream_of_failed hst) h hst
  | finalize =>
    cases hst : s.sess.state with
    | idle => exact cell_of_retire (exec_finalize_of_idle hst) h hst
    | opened => exact cell_of_retire (exec_finalize_of_opened hst) h hst
    | ended => exact cell_of_retire (exec_finalize_of_ended hst) h rfl
    | done => exact cell_of_retire (exec_finalize_of_done hst) h hst
    | failed => exact cell_of_retire (exec_finalize_of_failed hst) h hst
  | closeSession => exact cell_of_retire (exec_closeSession s) h rfl
  | hdrEnc | hdrDec | probe | decodePacket =>
    have kept := (exec_effect h).keeps_session_of_codec (by decide)
    exact ⟨kept, congrArg Session.state kept⟩

/-! ### Commands that ignore the session -/

/-- The header in IN is read without the session. -/
theorem inHeader_with_sess (s : State) (x : Session) : State.inHeader { s with sess := x } = s.inHeader := rfl

/-- Settles O17: none of the checks of the four, and nothing of what they write, reads the session. -/
theorem codecCommandsIgnoreTheSession : Obligations.CodecCommandsIgnoreTheSession := by
  intro i hi s x
  cases i with
  | hdrEnc =>
    simp only [exec, execHdrEnc, State.channelsArgHigh]
    split <;> exact ⟨_, rfl, rfl, rfl⟩
  | hdrDec =>
    simp only [exec, execHdrDec, inHeader_with_sess]
    cases s.inHeader <;> exact ⟨_, rfl, rfl, rfl⟩
  | probe => exact ⟨_, rfl, rfl, rfl⟩
  | decodePacket =>
    simp only [exec, execDecode, inHeader_with_sess]
    cases s.inHeader with
    | none => exact ⟨_, rfl, rfl, rfl⟩
    | some header =>
      dsimp only [State.inSize]
      split_ifs <;> exact ⟨_, rfl, rfl, rfl⟩
  | openSession | ingest | endStream | finalize | closeSession => simp at hi

/-! ### The sample count and the capacities -/

/-- Only INGEST, OPEN and CLOSE write sample_count (R144 (d)). -/
theorem CommandEffect.keeps_sampleCount {i : Instr} {s t : State} (effect : CommandEffect s i t)
    (hi : i ∉ [Instr.ingest, .openSession, .closeSession]) : t.sess.sampleCount = s.sess.sampleCount := by
  cases effect with
  | aborts | outputs | results | confidence | fails | ends | finalizes => rfl
  | opens | appends | closes => simp at hi

/-- Settles O18: INGEST and OPEN change the count only where they end with OK. -/
theorem sampleCountCountsIngestedSamples : Obligations.SampleCountCountsIngestedSamples := by
  intro i s t h
  cases i with
  | ingest =>
    by_cases opened : s.sess.state = .opened
    · obtain ha | ha | ha := exec_ingest_of_opened opened
      · obtain rfl := ha.next_eq h
        simp
      · obtain rfl := (raise_eq_next_iff ..).1 (ha.symm.trans h)
        simp
      · obtain rfl := (finish_eq_next_iff ..).1 (ha.symm.trans h)
        simp [Session.appendFrame]
    · obtain ⟨e, he, ha⟩ := exec_ingest_of_not_opened opened
      obtain rfl := ha.next_eq h
      simp [he]
  | openSession =>
    by_cases idle : s.sess.state = .idle
    · obtain ha | ha := exec_openSession_of_idle idle
      · obtain rfl := ha.next_eq h
        simp
      · obtain rfl := (finish_eq_next_iff ..).1 (ha.symm.trans h)
        simp [Session.create]
    · obtain rfl := (exec_openSession_of_not_idle idle).next_eq h
      simp
  | closeSession =>
    obtain rfl := (finish_eq_next_iff ..).1 ((exec_closeSession s).symm.trans h)
    simp [Session.none]
  | hdrEnc | hdrDec | probe | endStream | finalize | decodePacket =>
    simpa using (exec_effect h).keeps_sampleCount (by decide)

/-- Settles O19: a command that continues the session lowers no capacity. -/
theorem capacityNeverShrinksInASession : Obligations.CapacityNeverShrinksInASession :=
  fun _ _ _ c h lives hi => (((exec_effect h).continues hi lives).buffers c).2

/-! ### DONE and FAILED -/

/-- The states a session stays in until CLOSE or reset (R136, R144 (c)). -/
def SessState.Settled (x : SessState) : Prop := x = .done ∨ x = .failed

section
variable {s t : State} (settled : s.sess.state.Settled)
include settled

/-- Every command but CLOSE leaves a settled session as it is. -/
theorem CommandEffect.keeps_settled {i : Instr} (effect : CommandEffect s i t) (hi : i ≠ .closeSession) :
    t.sess = s.sess := by
  cases effect with
  | aborts | outputs | results | confidence => rfl
  | opens live | appends live | fails live | ends live | finalizes live => simp [SessState.Settled, live] at settled
  | closes => exact absurd rfl hi

/-- Every step but CLOSE and reset leaves a settled session as it is. -/
theorem step_keeps_settled (hstep : step s = .next t) (lives : ¬ s.endsSession) : t.sess = s.sess := by
  obtain ⟨i, performs, effect⟩ | ⟨_, _, rfl⟩ | ⟨_, _, rfl⟩ | ⟨a, rest, turn, queue, effect⟩ := step_cases hstep
  · exact effect.keeps_settled settled fun hi => lives (.inl (hi ▸ performs))
  · rfl
  · rfl
  · exact effect.keeps_session fun ha => lives (.inr ⟨turn, rest, ha ▸ queue⟩)

/-- A settled session stays as it is along its whole life. -/
theorem SessionLife.keeps_settled (life : SessionLife s t) : t.sess = s.sess := by
  induction life with
  | here => rfl
  | step _ lives next ih => rw [step_keeps_settled (by rwa [ih]) next lives, ih]

end

/-- Settles O33: FAILED is settled. -/
theorem failureIsTerminal : Obligations.FailureIsTerminal :=
  fun _ _ life failed => life.keeps_settled (.inr failed)

/-- Settles O21: DONE is settled, and in DONE FINALIZE has nothing to give. -/
theorem packetIsProducedOnce : Obligations.PacketIsProducedOnce := by
  intro s t life done
  have kept := life.keeps_settled (.inl done)
  exact ⟨kept, exec_finalize_of_done (by rw [kept, done])⟩

end Sys2Proof.Machine
end

section
/-! The encoder from any catchup state (R161 to R165), the carry between the channels (R162), and its round trip with the
decoder (R169). -/

namespace Sys2Proof.Machine

/-! ### One iteration -/

/-- The adjustment in full: the branch of the comparison with -128 is dead (R163, R166). -/
theorem catchupAdjust_eq (prev : Byte) (d : Int) (k : Catchup) :
    catchupAdjust prev d k = d + if k.pending = true ∧ prev = 127#8 then k.amount else 0 := by
  by_cases fires : k.pending = true ∧ prev = 127#8
  · obtain ⟨pending, rfl⟩ := fires
    simp [catchupAdjust, pending]
  · have quiet : k.Quiet prev := not_and.1 fires
    rw [quiet.adjust_eq, if_neg fires, add_zero]

theorem clipDelta_of_high {d : Int} (h : 127 < d) (amount : Int) :
    clipDelta d amount = (127, { pending := true, amount := d - 127 }) :=
  if_pos h

theorem clipDelta_of_low {d : Int} (h : d < -128) (amount : Int) :
    clipDelta d amount = (-128, { pending := true, amount := d + 128 }) :=
  (if_neg (by omega)).trans (if_pos h)

theorem clipDelta_of_fits {d : Int} (low : -128 ≤ d) (high : d ≤ 127) (amount : Int) :
    clipDelta d amount = (d, { pending := false, amount := amount }) :=
  (if_neg (by omega)).trans (if_neg (by omega))

/-- The byte of a delta in range, read as two's complement, is the delta (R165). -/
theorem toInt_tc8 {d : Int} (low : -128 ≤ d) (high : d ≤ 127) : (tc8 d).toInt = d :=
  BitVec.toInt_ofInt_eq_self (by decide) low (by omega)

/-- Settles O40: the adjusted difference falls in one of the clip's three ranges. -/
theorem encoderIterationClipsAndRecords : Obligations.EncoderIterationClipsAndRecords := by
  intro prev cur k d hd
  have iteration : encodeDelta prev cur k = (tc8 (clipDelta d k.amount).1, (clipDelta d k.amount).2) := by
    rw [encodeDelta, catchupAdjust_eq, ← hd]
  rw [iteration]
  refine ⟨fun high => ?_, fun low => ?_, fun low high => ?_⟩
  · rw [clipDelta_of_high high]
    rfl
  · rw [clipDelta_of_low low]
    rfl
  · rw [clipDelta_of_fits low high]
    exact ⟨toInt_tc8 low high, rfl⟩

/-! ### One channel -/

/-- A further sample appends one iteration, from the state the samples before it leave (R161). -/
theorem deltaEncodeChannel_append (samples : List Byte) (prev cur : Byte) (k : Catchup) :
    deltaEncodeChannel (samples ++ [prev, cur]) k =
      ((deltaEncodeChannel (samples ++ [prev]) k).1 ++
          [(encodeDelta prev cur (deltaEncodeChannel (samples ++ [prev]) k).2).1],
        (encodeDelta prev cur (deltaEncodeChannel (samples ++ [prev]) k).2).2) := by
  cases samples with
  | nil => rfl
  | cons first rest => simp [deltaEncodeChannel, encodeDeltas_append first prev rest [cur], encodeDeltas]

/-- Settles O58: the short channels are R168's, and each longer one is one iteration more. -/
theorem channelEncodingThreadsTheCatchupState : Obligations.ChannelEncodingThreadsTheCatchupState := by
  refine fun k => ⟨rfl, fun _ => rfl, fun _ _ => rfl, ?_⟩
  rintro samples prev cur _ rfl
  exact deltaEncodeChannel_append samples prev cur k

/-- Settles O41: the cleared state is quiet, and every iteration keeps it so. -/
theorem catchupNeverFiresWithinAChannel : Obligations.CatchupNeverFiresWithinAChannel :=
  fun samples => ⟨deltaEncodeChannel_length samples _, deltaEncodeChannel_getElem?_zero samples _,
    fun _ _ _ => deltaEncodeChannel_clear_getElem?_succ⟩

/-! ### The carry between the channels -/

/-- Under PER_PACKET a further channel starts from the state all the channels before it leave (R162). -/
theorem deltaEncodeFrom_perPacket_append (chs : List (List Byte)) (ch : List Byte) (k : Catchup) :
    deltaEncodeFrom .perPacket (chs ++ [ch]) k =
      deltaEncodeFrom .perPacket chs k ++
        (deltaEncodeChannel ch (chs.foldl (fun k c => (deltaEncodeChannel c k).2) k)).1 := by
  induction chs generalizing k with
  | nil => simp [deltaEncodeFrom]
  | cons c chs ih => simp [deltaEncodeFrom, ih]

/-- Settles O42, by the loop's two forms. -/
theorem catchupScopeDecidesTheCarry : Obligations.CatchupScopeDecidesTheCarry := by
  refine ⟨fun _ => rfl, fun ch chs => ?_, fun chs ch => deltaEncodeFrom_perPacket_append chs ch _⟩
  simp only [deltaEncodeAll, deltaEncodeFrom_perChannel, List.flatMap_cons]

/-! ### The round trip -/

theorem noClip_singleton (a : Byte) : noClip [a] := by
  intro i x y _ hy
  simp at hy

theorem noClip_cons_cons (a b : Byte) (l : List Byte) :
    noClip (a :: b :: l) ↔
      (-128 ≤ (b.toNat : Int) - a.toNat ∧ (b.toNat : Int) - a.toNat ≤ 127) ∧ noClip (b :: l) := by
  constructor
  · exact fun h => ⟨h 0 a b rfl rfl, fun i x y hx hy => h (i + 1) x y hx hy⟩
  · rintro ⟨first, later⟩ (_ | i) x y hx hy
    · cases hx
      cases hy
      exact first
    · exact later i x y hx hy

/-- The clipped difference leads from one sample to the next exactly when it was not clipped: a clipped one stops short,
without wrapping (R169). -/
theorem add_plainDelta_eq_iff (prev cur : Byte) :
    prev + plainDelta prev cur = cur ↔
      -128 ≤ (cur.toNat : Int) - prev.toNat ∧ (cur.toNat : Int) - prev.toNat ≤ 127 := by
  have := prev.isLt
  have := cur.isLt
  rw [← BitVec.toNat_inj, BitVec.toNat_add, plainDelta, tc8, BitVec.toNat_ofInt]
  omega

/-- From a quiet state the decoder gives back the samples exactly when no difference clips (R169). -/
theorem Catchup.Quiet.decodeDeltas_encodeDeltas_iff {k : Catchup} {first : Byte} (h : k.Quiet first) (rest : List Byte) :
    decodeDeltas first (encodeDeltas first rest k).1 = rest ↔ noClip (first :: rest) := by
  induction rest generalizing first k with
  | nil => exact iff_of_true rfl (noClip_singleton first)
  | cons x xs ih =>
    rw [noClip_cons_cons, ← add_plainDelta_eq_iff, ← ih (h.encodeDelta_snd x), encodeDeltas, decodeDeltas,
      h.encodeDelta_fst, List.cons.injEq]
    exact and_congr_right fun hx => by rw [hx]

/-- Settles O43: the cleared state is quiet. -/
theorem channelRoundTripsExactlyWithoutClipping : Obligations.ChannelRoundTripsExactlyWithoutClipping := by
  intro samples
  cases samples with
  | nil => exact iff_of_true rfl nofun
  | cons first rest =>
    rw [← (Catchup.quiet_clear first).decodeDeltas_encodeDeltas_iff rest, deltaEncodeChannel, deltaDecode, List.cons.injEq]
    exact and_iff_right rfl

end Sys2Proof.Machine
end

section
/-! DeltaDecode (R180), and DECODE check by check: each abort, and the whole next state of one that completes (R181). -/

namespace Sys2Proof.Machine

/-! ### DeltaDecode -/

@[simp] theorem deltaDecode_length (bs : List Byte) : (deltaDecode bs).length = bs.length := by
  cases bs <;> simp [deltaDecode]

/-- The first sample is the first byte. -/
theorem deltaDecode_getElem?_zero (bs : List Byte) : (deltaDecode bs)[0]? = bs[0]? := by
  cases bs <;> rfl

/-- Each later sample is the one before it plus its byte. -/
theorem deltaDecode_getElem?_succ {bs : List Byte} {i : Nat} {prev b : Byte} (hprev : (deltaDecode bs)[i]? = some prev)
    (hb : bs[i + 1]? = some b) : (deltaDecode bs)[i + 1]? = some (prev + b) := by
  cases bs with
  | nil => simp at hb
  | cons first rest => exact decodeDeltas_getElem? first rest i prev b hprev (by simpa using hb)

/-- Settles O44: bytes add modulo 256. -/
theorem deltaDecodeAddsModulo256 : Obligations.DeltaDecodeAddsModulo256 :=
  fun bs => ⟨deltaDecode_length bs, deltaDecode_getElem?_zero bs, fun _ prev b hprev hb =>
    ⟨prev + b, deltaDecode_getElem?_succ hprev hb, BitVec.toNat_add prev b⟩⟩

/-! ### The checks of DECODE -/

section
variable {s : State}

theorem exec_decodePacket_of_no_header (h : s.inHeader = none) : abortsWith .decodePacket s .formatMismatch := by
  simp only [abortsWith, exec, execDecode, h, raise_eq]

variable {header : Header} (h : s.inHeader = some header)
include h

theorem exec_decodePacket_of_many_channels (many : 16 < header.channels.toNat) :
    abortsWith .decodePacket s .invalidArgument := by
  simp only [abortsWith, exec, execDecode, h, maxChannels, many, if_true, raise_eq]

variable (few : header.channels.toNat ≤ 16)
include few

theorem exec_decodePacket_of_truncated (short : s.inLen.toNat < 14 + header.channels.toNat * header.count.toNat) :
    abortsWith .decodePacket s .truncatedInput := by
  simp only [abortsWith, exec, execDecode, h, maxChannels, Nat.not_lt.2 few, State.inSize, headerSize, short, if_true,
    if_false, raise_eq]

theorem exec_decodePacket_of_complete (long : 14 + header.channels.toNat * header.count.toNat ≤ s.inLen.toNat) :
    exec .decodePacket s = (s.withResults header.rate (header.channels.setWidth 32) header.count).finish
      (s.decodedBody header.channels.toNat header.count.toNat) := by
  simp only [exec, execDecode, h, maxChannels, Nat.not_lt.2 few, State.inSize, headerSize, Nat.not_lt.2 long, if_false]

end

/-- Settles O45: the checks in order, on the fields of the header in IN. -/
theorem decodeChecksInOrder : Obligations.DecodeChecksInOrder := by
  refine fun s => ⟨fun bad => ?noHeader, fun holds => ?channels, fun holds => ?truncated⟩
  case noHeader =>
    exact exec_decodePacket_of_not_inHoldsHeader fun ⟨long, hmagic⟩ => bad.elim (Nat.not_lt.2 long) (· hmagic)
  case channels => exact exec_decodePacket_of_many_channels (inHeader_of_holds s holds)
  case truncated => exact exec_decodePacket_of_truncated (inHeader_of_holds s holds)

/-! ### The samples DECODE writes -/

@[simp] theorem bodyBlock_length (s : State) (sc c : Nat) : (s.bodyBlock sc c).length = sc := readIn_length ..

/-- Byte `i` of channel `c`'s block (R184). -/
theorem bodyBlock_getElem? (s : State) {sc i : Nat} (c : Nat) (hi : i < sc) :
    (s.bodyBlock sc c)[i]? = some (s.inByte (14 + c * sc + i)) := readIn_getElem? _ _ _ _ hi

theorem decodedBody_length (s : State) (cc sc : Nat) : (s.decodedBody cc sc).length = cc * sc :=
  flatMap_range_length cc sc _ fun c _ => by simp

/-- The output is planar: channel `c`'s samples start at `c · sc` (R183). -/
theorem decodedBody_getElem? (s : State) {cc sc c i : Nat} (hc : c < cc) (hi : i < sc) :
    (s.decodedBody cc sc)[c * sc + i]? = (deltaDecode (s.bodyBlock sc c))[i]? :=
  flatMap_range_getElem? cc sc _ (fun c _ => by simp) c i hc hi

/-- Settles O46: channel `c`'s samples in OUT are its block of IN, decoded. -/
theorem decodeReconstructsEveryChannel : Obligations.DecodeReconstructsEveryChannel := by
  rintro s holds _ _ rfl rfl few long
  refine ⟨_, exec_decodePacket_of_complete (inHeader_of_holds s holds) few long, decodedBody_length .., fun c i hc hi => ?_⟩
  constructor
  · rintro rfl
    exact (decodedBody_getElem? s hc hi).trans <| (deltaDecode_getElem?_zero _).trans (bodyBlock_getElem? s c hi)
  · intro pos
    obtain ⟨j, rfl⟩ := Nat.exists_eq_succ_of_ne_zero pos.ne'
    have hj : j < s.inCount.toNat := Nat.lt_of_succ_lt hi
    have hprev := List.getElem?_eq_getElem (l := deltaDecode (s.bodyBlock s.inCount.toNat c)) (i := j) (by simpa using hj)
    exact ⟨_, (decodedBody_getElem? s hc hj).trans hprev,
      (decodedBody_getElem? s hc hi).trans (deltaDecode_getElem?_succ hprev (bodyBlock_getElem? s c hi))⟩

/-! ### What DECODE depends on -/

/-- Position `i` of block `c` is one of the positions of all the blocks. -/
theorem block_position_lt {cc sc c i : Nat} (hc : c < cc) (hi : i < sc) : c * sc + i < cc * sc :=
  calc c * sc + i < (c + 1) * sc := by rw [Nat.succ_mul]; omega
    _ ≤ cc * sc := Nat.mul_le_mul_right sc hc

section
variable {s u : State} (same : sameIn s u)
include same

theorem sameIn.inHeader_eq : s.inHeader = u.inHeader := by
  obtain ⟨length, bytes⟩ := same
  refine inHeader_congr length fun a long short => bytes a ?_
  rw [length]
  exact Nat.lt_of_lt_of_le short long

/-- Complete blocks lie within IN, so they decode alike. -/
theorem sameIn.decodedBody_eq {cc sc : Nat} (long : 14 + cc * sc ≤ s.inLen.toNat) :
    s.decodedBody cc sc = u.decodedBody cc sc := by
  refine List.flatMap_congr fun c hc => congrArg deltaDecode (List.map_congr_left fun i hi => same.2 _ ?_)
  have := block_position_lt (List.mem_range.1 hc) (List.mem_range.1 hi)
  rw [headerSize]
  omega

end

/-- Two states with the same IN: DECODE aborts in both with one code, or completes in both with one result and output. -/
theorem sameIn.exec_decodePacket {s u : State} (same : sameIn s u) :
    (∃ e, e ≠ .ok ∧ abortsWith .decodePacket s e ∧ abortsWith .decodePacket u e) ∨
      ∃ r0 r1 r2 o, exec .decodePacket s = (s.withResults r0 r1 r2).finish o ∧
        exec .decodePacket u = (u.withResults r0 r1 r2).finish o := by
  cases hu : u.inHeader with
  | none =>
    have hs := same.inHeader_eq.trans hu
    exact .inl ⟨.formatMismatch, nofun, exec_decodePacket_of_no_header hs, exec_decodePacket_of_no_header hu⟩
  | some header =>
    have hs := same.inHeader_eq.trans hu
    by_cases few : header.channels.toNat ≤ 16
    · by_cases long : 14 + header.channels.toNat * header.count.toNat ≤ s.inLen.toNat
      · refine .inr ⟨_, _, _, _, exec_decodePacket_of_complete hs few long, ?_⟩
        rw [same.decodedBody_eq long]
        exact exec_decodePacket_of_complete hu few (same.1 ▸ long)
      · have short := Nat.lt_of_not_le long
        exact .inl ⟨.truncatedInput, nofun, exec_decodePacket_of_truncated hs few short,
          exec_decodePacket_of_truncated hu few (same.1 ▸ short)⟩
    · have many := Nat.lt_of_not_le few
      exact .inl ⟨.invalidArgument, nofun, exec_decodePacket_of_many_channels hs many,
        exec_decodePacket_of_many_channels hu many⟩

/-- Settles O47: the results and the output are those of either end, abort or completion. -/
theorem decodeDependsOnlyOnItsInput : Obligations.DecodeDependsOnlyOnItsInput := by
  intro s u same
  obtain ⟨e, he, aborts⟩ | ⟨r0, r1, r2, o, completes⟩ := same.exec_decodePacket
  · exact ⟨e, [], 0#32, 0#32, 0#32, fun ok => absurd ok he, fun _ => aborts⟩
  · exact ⟨.ok, o, r0, r1, r2, fun _ => completes, fun err => absurd rfl err⟩

end Sys2Proof.Machine
end

section
/-! A packet none of whose channels clips (R169, R186): it is the same under either CATCHUP_SCOPE, and DECODE gives its samples
back. -/

namespace Sys2Proof.Machine

/-! ### The carry without clips -/

theorem Catchup.quiet_of_not_pending {k : Catchup} (h : k.pending = false) (prev : Byte) : k.Quiet prev :=
  fun pending => absurd pending (Bool.eq_false_iff.1 h)

/-- The iterations from two quiet states emit the same bytes. -/
theorem Catchup.Quiet.encodeDeltas_fst_eq {k k' : Catchup} {first : Byte} (h : k.Quiet first) (h' : k'.Quiet first)
    (rest : List Byte) : (encodeDeltas first rest k).1 = (encodeDeltas first rest k').1 := by
  induction rest generalizing first k k' with
  | nil => rfl
  | cons x xs ih =>
    simp only [encodeDeltas, h.encodeDelta_fst, h'.encodeDelta_fst, ih (h.encodeDelta_snd x) (h'.encodeDelta_snd x)]

/-- The iterations over samples that do not clip leave no catchup pending (R163, R164). -/
theorem encodeDeltas_not_pending {first : Byte} {rest : List Byte} {k : Catchup} (h : k.pending = false)
    (fits : noClip (first :: rest)) : (encodeDeltas first rest k).2.pending = false := by
  induction rest generalizing first k with
  | nil => exact h
  | cons x xs ih =>
    obtain ⟨⟨low, high⟩, later⟩ := (noClip_cons_cons first x xs).1 fits
    refine ih (Bool.eq_false_iff.2 fun pending => ?_) later
    rw [encodeDelta, (Catchup.quiet_of_not_pending h first).adjust_eq, clipDelta_pending_iff] at pending
    omega

section
variable {k : Catchup} (h : k.pending = false)
include h

/-- With nothing pending a channel is encoded as from the cleared state. -/
theorem deltaEncodeChannel_fst_eq_clear (samples : List Byte) :
    (deltaEncodeChannel samples k).1 = (deltaEncodeChannel samples Catchup.clear).1 := by
  cases samples with
  | nil => rfl
  | cons first rest =>
    exact congrArg (first :: ·) <|
      (Catchup.quiet_of_not_pending h first).encodeDeltas_fst_eq (Catchup.quiet_clear first) rest

theorem deltaEncodeChannel_not_pending {samples : List Byte} (fits : noClip samples) :
    (deltaEncodeChannel samples k).2.pending = false := by
  cases samples with
  | nil => exact h
  | cons first rest => exact encodeDeltas_not_pending h fits

/-- Channels that do not clip carry nothing on, so PER_PACKET encodes them as PER_CHANNEL does (R162). -/
theorem deltaEncodeFrom_perPacket_of_noClip {chs : List (List Byte)} (fits : ∀ ch ∈ chs, noClip ch) :
    deltaEncodeFrom .perPacket chs k = deltaEncodeFrom .perChannel chs Catchup.clear := by
  induction chs generalizing k with
  | nil => rfl
  | cons ch chs ih =>
    obtain ⟨fitsHead, fitsTail⟩ := List.forall_mem_cons.1 fits
    rw [deltaEncodeFrom_perChannel, List.flatMap_cons, ← deltaEncodeFrom_perChannel chs Catchup.clear,
      ← deltaEncodeChannel_fst_eq_clear h ch, ← ih (deltaEncodeChannel_not_pending h fitsHead) fitsTail]
    rfl

end

/-- A packet without clips does not depend on CATCHUP_SCOPE. -/
theorem Session.packet_eq_perChannel {x : Session} (fits : ∀ ch ∈ x.channels, noClip ch) (scope : CatchupScope) :
    x.packet scope = x.packet .perChannel := by
  cases scope with
  | perChannel => rfl
  | perPacket => exact congrArg (headerEncode _ _ _ ++ ·) (deltaEncodeFrom_perPacket_of_noClip rfl fits)

/-! ### The session's samples -/

section
variable {x : Session} {maxCap : Nat} (h : x.Inv maxCap)
include h

/-- A legal session's channels are all its used buffers hold (R23 (a)). -/
theorem Session.Inv.channels_eq : x.channels = (x.buffers.toList.take x.channelCount.toNat).map ChannelBuffer.data := by
  refine List.map_congr_left fun b hb => ?_
  obtain ⟨c, hc, rfl⟩ := (exists_mem_take_iff x.buffers x.channelCount.toNat (· = b)).1 ⟨b, hb, rfl⟩
  rw [← h.data_length hc, List.take_length]

/-- What holds of every used buffer's samples holds of every channel. -/
theorem Session.Inv.forall_mem_channels {P : List Byte → Prop}
    (hP : ∀ c : Fin 16, c.val < x.channelCount.toNat → P x.buffers[c].data) : ∀ ch ∈ x.channels, P ch := by
  rw [h.channels_eq, List.forall_mem_map]
  intro b hb
  obtain ⟨c, hc, rfl⟩ := (exists_mem_take_iff x.buffers x.channelCount.toNat (· = b)).1 ⟨b, hb, rfl⟩
  exact hP c hc

end

/-! ### DECODE of a packet in IN -/

/-- IN begins with the bytes of `p`. -/
def State.inStartsWith (s : State) (p : List Byte) : Prop := ∀ a b, p[a]? = some b → s.inByte a = b

section
variable {s : State} {p : List Byte} (hp : s.inStartsWith p)
include hp

/-- A read of IN over a part of `p` gives that part. -/
theorem State.inStartsWith.readIn_eq {a : Nat} {bs : List Byte} (part : ∀ i, i < bs.length → p[a + i]? = bs[i]?) :
    s.readIn a bs.length = bs := by
  refine List.ext_getElem (readIn_length ..) fun i _ hi => ?_
  have byte : s.inByte (a + i) = bs[i] := hp _ _ ((part i hi).trans (List.getElem?_eq_getElem hi))
  simpa [State.readIn] using byte

end

section
variable {s : State} {x : Session} {maxCap : Nat} {scope : CatchupScope}

/-- The header of a packet in IN is the one FINALIZE wrote (R117, R141). -/
theorem inHeader_of_packet (hp : s.inStartsWith (x.packet scope)) (long : 14 ≤ s.inLen.toNat) :
    s.inHeader = some { rate := x.sampleRate, channels := x.channelCount, count := x.sampleCount } := by
  have bytes : s.readIn 0 14 = headerEncode x.sampleRate x.channelCount x.sampleCount := by
    refine hp.readIn_eq (bs := headerEncode ..) fun i hi => ?_
    rw [Nat.zero_add, Session.packet, List.getElem?_append_left hi]
  rw [State.inHeader, if_neg (Nat.not_lt.2 long), bytes, headerDecode_headerEncode]

variable (inv : x.Inv maxCap) (hp : s.inStartsWith (x.packet .perChannel))
include inv hp

/-- Channel `c`'s block of a packet in IN is the channel, encoded (R184). -/
theorem bodyBlock_of_packet {c : Fin 16} (hc : c.val < x.channelCount.toNat) :
    s.bodyBlock x.sampleCount.toNat c = (deltaEncodeChannel x.buffers[c].data Catchup.clear).1 := by
  have size : (deltaEncodeChannel x.buffers[c].data Catchup.clear).1.length = x.sampleCount.toNat := by
    rw [deltaEncodeChannel_length, inv.data_length hc]
  rw [State.bodyBlock, ← size]
  refine hp.readIn_eq fun i hi => ?_
  rw [size] at hi ⊢
  exact inv.packet_perChannel_getElem? hc hi

/-- The decoded channels of a packet in IN are the session's samples, where none of them clips (R169). -/
theorem decodedBody_of_packet (few : x.channelCount.toNat ≤ 16)
    (fits : ∀ c : Fin 16, c.val < x.channelCount.toNat → noClip x.buffers[c].data) :
    s.decodedBody x.channelCount.toNat x.sampleCount.toNat =
      ((x.buffers.toList.take x.channelCount.toNat).map ChannelBuffer.data).flatten := by
  rw [State.decodedBody, List.flatMap_def]
  refine congrArg List.flatten (List.ext_getElem (by simpa using few) fun c hc _ => ?_)
  have hc : c < x.channelCount.toNat := by simpa using hc
  have block := bodyBlock_of_packet inv hp (c := ⟨c, by omega⟩) hc
  simpa [block] using (channelRoundTripsExactlyWithoutClipping _).2 (fits ⟨c, by omega⟩ hc)

end

/-- Settles O48: the packet does not depend on the scope, its header is read back, and each of its blocks decodes to its
channel. -/
theorem finalizeThenDecodeReturnsTheSamples : Obligations.FinalizeThenDecodeReturnsTheSamples := by
  intro s t u inv ended fits hexec length bytes
  have live : s.sess.state ≠ .idle := by simp [ended]
  have few := (inv.sess.channels live).2
  have out : t.out = s.sess.packet .perChannel :=
    (exec_finalize_out ended hexec).trans (Session.packet_eq_perChannel (inv.sess.forall_mem_channels fits) _)
  rw [out] at length bytes
  rw [inv.sess.packet_length live] at length
  have header := inHeader_of_packet bytes (by omega)
  exact ⟨_, exec_decodePacket_of_complete header few length.ge, rfl, rfl, rfl, rfl,
    decodedBody_of_packet inv.sess bytes few fits⟩

end Sys2Proof.Machine
end

section
/-! How a command ends (R200, R201, R203): with which codes, and with no effect when the code is not OK; and the block at rest
(R217). -/

namespace Sys2Proof.Machine

/-! ### The codes -/

section
variable {i : Instr} {s t u : State} {e : StatusCode} {o : List Byte}

/-- A command that retires, by `raise` or `finish`, ends with the code it retires with. -/
theorem code_of_retire (ha : exec i s = .next (u.retire e o)) (h : exec i s = .next t) : t.code = e :=
  congrArg Prod.snd (cell_of_retire ha h rfl)

theorem exec_hdrEnc_of_channelsArgHigh_ne_zero (high : s.channelsArgHigh ≠ 0#16) : abortsWith .hdrEnc s .invalidArgument :=
  if_pos high

theorem code_of_hdrEnc (h : exec .hdrEnc s = .next t) : t.code = .ok ∨ t.code = .invalidArgument := by
  by_cases high : s.channelsArgHigh = 0#16
  · exact .inl (code_of_retire (exec_hdrEnc_of_channelsArgHigh_eq_zero high) h)
  · exact .inr (code_of_retire (exec_hdrEnc_of_channelsArgHigh_ne_zero high) h)

theorem code_of_hdrDec (h : exec .hdrDec s = .next t) : t.code = .ok ∨ t.code = .formatMismatch := by
  by_cases holds : s.inHoldsHeader
  · exact .inl (code_of_retire (exec_hdrDec_of_inHoldsHeader holds) h)
  · exact .inr (code_of_retire (exec_hdrDec_of_not_inHoldsHeader holds) h)

/-- PROBE has one end: without a match its answer is 0 (R116). -/
theorem code_of_probe (h : exec .probe s = .next t) : t.code = .ok := code_of_retire rfl h

/-- DECODE has one end per check of R181, and OK when all of them pass. -/
theorem code_of_decodePacket (h : exec .decodePacket s = .next t) :
    t.code = .ok ∨ t.code = .formatMismatch ∨ t.code = .invalidArgument ∨ t.code = .truncatedInput := by
  cases header : s.inHeader with
  | none => exact .inr (.inl (code_of_retire (exec_decodePacket_of_no_header header) h))
  | some fields =>
    obtain many | few := Nat.lt_or_ge 16 fields.channels.toNat
    · exact .inr (.inr (.inl (code_of_retire (exec_decodePacket_of_many_channels header many) h)))
    · obtain short | long := Nat.lt_or_ge s.inLen.toNat (14 + fields.channels.toNat * fields.count.toNat)
      · exact .inr (.inr (.inr (code_of_retire (exec_decodePacket_of_truncated header few short) h)))
      · exact .inl (code_of_retire (exec_decodePacket_of_complete header few long) h)

end

/-- Settles O15: the codec commands check by check, the session commands by the cells of the state machine. -/
theorem commandsRaiseOnlyTheirCodes : Obligations.CommandsRaiseOnlyTheirCodes := by
  intro i s t h
  cases i with
  | hdrEnc => simpa using code_of_hdrEnc h
  | hdrDec => simpa using code_of_hdrDec h
  | probe => simpa using code_of_probe h
  | decodePacket => simpa using code_of_decodePacket h
  | closeSession => simpa using code_of_retire (exec_closeSession s) h
  | openSession | ingest | endStream | finalize =>
    have cell := sessionCommandsFollowTheStateMachine _ s t h _ rfl
    cases hst : s.sess.state
    all_goals
      simp only [hst, Prod.mk.injEq] at cell
      simp only [List.mem_cons]
      tauto

/-! ### The abort -/

/-- A command that ends with another code than OK is the abort of R203, or INGEST's growth failure in OPEN (R136). -/
theorem CommandEffect.of_code_ne_ok {i : Instr} {s t : State} (effect : CommandEffect s i t) (hcode : t.code ≠ .ok) :
    (∃ e, t = s.retire e []) ∨
      (i = .ingest ∧ s.sess.state = .opened ∧ t = (s.withSessState .failed).retire .allocationFailure []) := by
  cases effect with
  | aborts => exact .inl ⟨_, rfl⟩
  | fails opened => exact .inr ⟨rfl, opened, rfl⟩
  | outputs | results | confidence | opens | appends | ends | finalizes | closes => exact absurd rfl hcode

/-- Settles O14: either end empties OUT and writes no result, and STATUS is computed from the state it leaves. -/
theorem errorsAbortWithoutEffect : Obligations.ErrorsAbortWithoutEffect := by
  intro i s t h hcode
  obtain ⟨e, rfl⟩ | ⟨ingest, opened, rfl⟩ := (exec_effect h).of_code_ne_ok hcode
  · exact ⟨rfl, rfl, rfl, rfl, rfl, .inl rfl, statusFields_code .., statusFields_state ..⟩
  · exact ⟨rfl, rfl, rfl, rfl, rfl, .inr ⟨ingest, opened, rfl, rfl⟩, statusFields_code .., statusFields_state ..⟩

/-! ### Rest -/

/-- Settles O57: with BUSY = 0 the turn is the host's, and it has nothing to do. -/
theorem idleBlockKeepsItsState : Obligations.IdleBlockKeepsItsState := by
  intro s hbusy queue
  have turn : s.blockTurn = false := by simp [State.blockTurn, hbusy]
  exact step_of_nothing_pending turn queue

end Sys2Proof.Machine
end

section
/-! Reset and the host protocol (R230, R240, R241), and the completion of every command (R250). -/

namespace Sys2Proof.Machine

/-! ### The faults of the host's actions -/

section
variable {s : State} {width offset : Nat}

/-- A write faults when it is malformed, or while BUSY = 1 at an offset that R241 (a) and (b) name. -/
theorem hostWrite_faults_iff {v : Word} :
    (∃ w, hostWrite s width offset v = .fault (.hostProtocol w)) ↔
      (HostAction.write width offset v).forbidden s.busy := by
  simp only [HostAction.forbidden]
  obtain ⟨bad, hw⟩ | ⟨wide, aligned, outside, hw⟩ | ⟨r, wide, aligned, hr, ⟨busy, w, viol, hw⟩ | ⟨allowed, hw⟩⟩ :=
    hostWrite_cases s width offset v <;> rw [hw]
  · exact iff_of_true ⟨_, rfl⟩ (by tauto)
  · have notListed : offset ∉ [0x00, 0x04, 0x08, 0x0C, 0x10] := by
      simp only [List.mem_cons, List.not_mem_nil, or_false]
      omega
    exact iff_of_false nofun (by tauto)
  · have listed := (busyViolation_ne_none_iff hr).1 (by simp [viol])
    exact iff_of_true ⟨w, rfl⟩ (.inr (.inr ⟨busy, listed⟩))
  · rw [busyViolation_ne_none_iff hr] at allowed
    exact iff_of_false nofun (by tauto)

/-- A read faults when it is malformed, whatever BUSY is (R241 (d)). -/
theorem hostRead_faults_iff :
    (∃ w, hostRead s width offset = .fault (.hostProtocol w)) ↔ (HostAction.read width offset).forbidden s.busy := by
  simp only [HostAction.forbidden]
  obtain ⟨bad, hr⟩ | ⟨wide, aligned, _, hr⟩ | ⟨_, wide, aligned, _, hr⟩ := hostRead_cases s width offset <;> rw [hr]
  · exact iff_of_true ⟨_, rfl⟩ (by tauto)
  all_goals exact iff_of_false nofun (by tauto)

/-- A supply of IN faults while BUSY = 1 (R241 (c)). -/
theorem hostSupply_faults_iff (m : Memory) :
    (∃ w, hostSupply s m = .fault (.hostProtocol w)) ↔ s.busy = true := by
  unfold hostSupply
  split
  next busy => exact iff_of_true ⟨_, rfl⟩ busy
  next idle => exact iff_of_false nofun idle

/-- Sizing IN, a well-formed write of IN_LEN, is forbidden exactly while BUSY = 1 (R91, R241 (b)). -/
theorem forbidden_write_inLen_iff {busy : Bool} (v : Word) :
    (HostAction.write 32 0x10 v).forbidden busy ↔ HostAction.sizeIn.forbidden busy := by
  simp [HostAction.forbidden]

/-- The host's action faults exactly when R241 forbids it. -/
theorem hostAct_faults_iff {a : HostAction} :
    (∃ w, hostAct s a = .fault (.hostProtocol w)) ↔ a.forbidden s.busy := by
  cases a with
  | write => exact hostWrite_faults_iff
  | read => exact hostRead_faults_iff
  | loadIn | pokeIn | copyOutToIn => exact hostSupply_faults_iff _
  | sizeIn => exact hostWrite_faults_iff.trans (forbidden_write_inLen_iff _)
  | await | reset => exact iff_of_false nofun id

end

/-- Only the host's first action can stop a run. -/
theorem step_next_or_hostAct (s : State) :
    (∃ t, step s = .next t) ∨
      ∃ a rest, s.hostQueue = a :: rest ∧ step s = hostAct { s with hostQueue := rest } a := by
  cases turn : s.blockTurn with
  | true =>
    rw [step_of_blockTurn s turn]
    exact .inl (exists_blockStep_eq_next s)
  | false =>
    cases queue : s.hostQueue with
    | nil => exact .inl ⟨s, step_of_nothing_pending turn queue⟩
    | cons a rest => exact .inr ⟨a, rest, rfl, step_of_pending turn queue⟩

/-- Settles O53: only the host's first action can fault, and it does exactly when R241 forbids it. -/
theorem hostProtocolFaultsExactly : Obligations.HostProtocolFaultsExactly := by
  intro s
  constructor
  · rintro ⟨w, fault⟩
    obtain ⟨t, next⟩ | ⟨a, rest, queue, act⟩ := step_next_or_hostAct s
    · rw [next] at fault
      cases fault
    · rw [act] at fault
      exact ⟨a, rest, queue, (hostAct_faults_iff (s := { s with hostQueue := rest })).1 ⟨w, fault⟩⟩
  · rintro ⟨a, rest, queue, forbidden⟩
    have notAwait : a ≠ .await := by
      rintro rfl
      exact forbidden
    rw [step_of_host_action s a rest queue notAwait]
    exact hostAct_faults_iff.2 forbidden

/-! ### Reset -/

/-- Reset is taken at any time, a command in progress included (R230). -/
theorem step_reset {s : State} {rest : List HostAction} (queue : s.hostQueue = .reset :: rest) :
    step s = .next (State.resetBlock { s with hostQueue := rest }) :=
  step_of_host_action s .reset rest queue nofun

/-- Settles O2: the step is the block's reset. -/
theorem resetActionGivesTheResetValues : Obligations.ResetActionGivesTheResetValues := by
  intro s rest queue
  exact ⟨_, step_reset queue, rfl, rfl, rfl, rfl, rfl, rfl, rfl, rfl, rfl, rfl, rfl, rfl, rfl, rfl⟩

/-! ### Completion -/

/-- Settles O11: no command stops, and every way to complete clears BUSY. -/
theorem everyCommandCompletes : Obligations.EveryCommandCompletes := by
  intro i s
  obtain ⟨t, h⟩ := exists_exec_eq_next i s
  obtain ⟨_, _, _, _, _, _, rfl⟩ := (exec_effect h).exists_update
  exact ⟨_, h, rfl⟩

/-! ### Reads while BUSY = 1 -/

/-- While BUSY = 1 a read of any register latches the free value of that read (R240, D27). -/
theorem hostRead_of_busy {s : State} {offset : Nat} (busy : s.busy = true) (aligned : offset % 4 = 0)
    (inside : offset < 0x40) :
    hostRead s 32 offset = .next { s with hostData := s.busyRead, busyReads := s.busyReads + 1 } := by
  obtain ⟨bad, _⟩ | ⟨_, _, outside, _⟩ | ⟨_, _, _, _, hr⟩ := hostRead_cases s 32 offset
  · exact absurd ⟨rfl, aligned⟩ bad
  · exact absurd inside (Nat.not_lt.2 outside)
  · rw [hr, if_pos busy]

/-- Settles O55: the read is the host's action even while BUSY = 1. -/
theorem busyReadsReturnAnyValue : Obligations.BusyReadsReturnAnyValue := by
  intro s offset rest busy queue aligned inside
  rw [step_of_host_action s _ rest queue nofun]
  exact hostRead_of_busy (s := { s with hostQueue := rest }) busy aligned inside

end Sys2Proof.Machine
end
